-- ==== Sys2Proof/Word.lean ====
section
/-! DEFINITION. The words of the block: bytes and byte strings (R10, R11), the fixed-width identifiers
(P7, P8), the typed operand lanes of the host port (R68, R100, R101), and a presented transaction, not yet
decoded, in one of the three formats of the opcode table (R106). -/

namespace Sys2Proof

/-- A byte, bits 0 to 7 (R10). -/
abbrev Byte := BitVec 8

/-- A finite sequence of bytes; position 0 is the first byte on the wire (R11, R63). -/
abbrev Bytes := List Byte

/-- A data identifier, 16 bits (P7). -/
abbrev Did := BitVec 16

/-- A diagnostic trouble code, 24 bits (P8). -/
abbrev Dtc := BitVec 24

/-- The opaque identifier given to RESET, held as its bytes; no rule reads it (P16, R41). -/
abbrev EcuId := Bytes

/-- The operand lanes of the host port, one per operand the commands of R100 name.
Integers arrive whole (R68); a byte string carries its own length (R101).
A command reads the lanes R100 gives it and no other (DESIGN CHOICE, log 3, safe). -/
structure Operands where
  /-- `ecu_id` of RESET. -/
  ecuId : EcuId := []
  /-- The one `Bytes` operand: `raw`, `value`, `payload`, `prefix` or `chunk`. -/
  bytes : Bytes := []
  /-- `id` of SET_DID, 16 bits. -/
  did : Did := 0
  /-- `code` of ADD_DTC, 24 bits. -/
  dtc : Dtc := 0
  /-- `total_length` of ENCODE_FF, LEN_IN_BITS = 16 (P13). -/
  totalLength : BitVec 16 := 0
  /-- `sequence_number` of ENCODE_CF, SN_IN_BITS = 8 (P14). -/
  sequenceNumber : BitVec 8 := 0
  deriving DecidableEq, Repr

/-- A transaction as presented, undecoded, in one of the opcode table's three formats (R106).
`command` is the host port of R100. `frame` and `request` are the two inner formats seen on their own:
`frame` stands for the transaction DECODE of that raw frame, `request` for HANDLE_FRAME of a SingleFrame that
carries that payload (DESIGN CHOICE, log 1, safe). Both inner formats are non-empty by construction, since an empty
frame has no PCI byte (R85) and a request is never empty (R92). -/
inductive Transaction where
  /-- HOST_CMD: a 4-bit command code with its operand lanes. -/
  | command (code : BitVec 4) (operands : Operands)
  /-- PCI: byte 0 of a raw frame, then the frame's other bytes. -/
  | frame (pci : Byte) (rest : Bytes)
  /-- UDS_REQ: the SID, then the service payload. -/
  | request (sid : Byte) (servicePayload : Bytes)
  deriving DecidableEq, Repr

end Sys2Proof
end

