-- ==== Sys2Proof/Config.lean ====
section
/-! DEFINITION. The implementation parameters of R9: the fixed ones as constants, the ones marked PARAMETER or
OPEN as a record that the state carries and no transaction writes, so that every statement holds for every
value of them. -/

namespace Sys2Proof

/-- P12, `OVERSIZE_POLICY`: what an encoder does with a chunk longer than its frame (R122, R123). -/
inductive OversizePolicy where
  | contractError
  | truncate
  deriving DecidableEq, Repr

/-- The parameters R9 marks PARAMETER or OPEN. -/
structure Params where
  /-- P9, `DTC_CAP`, 1 to 255. -/
  dtcCap : Nat
  /-- P10, `DID_VAL_MAX`, OPEN, at least 0. -/
  didValMax : Nat
  /-- P11, `WRAP_TRANSPORT_ERRORS`. -/
  wrapTransportErrors : Bool
  /-- P12, `OVERSIZE_POLICY`. -/
  oversizePolicy : OversizePolicy
  /-- P15, `HOST_BUF_MAX`, OPEN, at least 8. -/
  hostBufMax : Nat
  deriving DecidableEq, Repr

/-- The ranges R9 gives: 1 ≤ DTC_CAP ≤ 255 and HOST_BUF_MAX ≥ 8. -/
abbrev Params.wf (p : Params) : Prop := 1 ≤ p.dtcCap ∧ p.dtcCap ≤ 255 ∧ 8 ≤ p.hostBufMax

/-- The defaults of R9 for P9, P11 and P12.
P10 and P15 are OPEN and have no default: 255 and 4095 are the model's (DESIGN CHOICE, log 2, unsafe: a claim about
`State.reset` alone may lean on them). No statement rests on them. -/
def Params.default : Params where
  dtcCap := 255
  didValMax := 255
  wrapTransportErrors := false
  oversizePolicy := .contractError
  hostBufMax := 4095

namespace Config

/-- P1, `MAX_FRAME_LEN`. -/
def maxFrameLen : Nat := 8

/-- P2, `SF_CAP`. -/
def sfCap : Nat := 7

/-- P3, `FF_CAP`. -/
def ffCap : Nat := 6

/-- P4, `CF_CAP`. -/
def cfCap : Nat := 7

/-- P5: the largest 12-bit FirstFrame length. -/
def ffLenMax : Nat := 4095

end Config

end Sys2Proof
end

