-- ==== Sys2Proof/Syntax.lean ====
section
/-! DEFINITION. The instructions: one constructor per row of the opcode table (R106), in the table's order, with
the row's fields pulled out. -/

namespace Sys2Proof

/-- A decoded transaction. The first six are the PCI rows (R85), the next seven the UDS_REQ rows (R95), the rest
the HOST_CMD rows (R100). -/
inductive Instr where
  /-- PCI_SF (R86, R125): SF_DL and every byte after byte 0. -/
  | pciSf (sfDl : BitVec 4) (rest : Bytes)
  /-- PCI_FF (R87, R126): FF_DL[11:8] and every byte after byte 0, of which the first is FF_DL[7:0]. -/
  | pciFf (ffDlHi : BitVec 4) (rest : Bytes)
  /-- PCI_CF (R88, R127): SN and every byte after byte 0. -/
  | pciCf (sn : BitVec 4) (rest : Bytes)
  /-- PCI_FC (R89, R128): high nibble 0x3. -/
  | pciFc (low : BitVec 4) (rest : Bytes)
  /-- PCI_RESERVED_4_7 (R89, R128): high nibble 0x4 to 0x7; `low` is bits 5 to 0 of byte 0. -/
  | pciReserved4To7 (low : BitVec 6) (rest : Bytes)
  /-- PCI_RESERVED_8_F (R89, R128): high nibble 0x8 to 0xF; `low` is bits 6 to 0 of byte 0. -/
  | pciReserved8ToF (low : BitVec 7) (rest : Bytes)
  /-- TesterPresent (R155): SID 0x3E and the service payload. -/
  | testerPresent (sp : Bytes)
  /-- DiagnosticSessionControl (R156): SID 0x10 and the service payload. -/
  | diagnosticSessionControl (sp : Bytes)
  /-- ReadDataByIdentifier (R157): SID 0x22 and the service payload. -/
  | readDataByIdentifier (sp : Bytes)
  /-- ReadDTCInformation_01 (R159): SID 0x19, subfunction 0x01, and what follows. -/
  | readDtcInformation01 (rest : Bytes)
  /-- ReadDTCInformation_02 (R160): SID 0x19, subfunction 0x02, and what follows. -/
  | readDtcInformation02 (rest : Bytes)
  /-- RDTCI_OTHER (R161): SID 0x19 and a service payload that does not begin with 0x01 or 0x02. -/
  | rdtciOther (sp : Bytes)
  /-- SID_UNSUPPORTED (R162): any other SID and the service payload. -/
  | sidUnsupported (sid : Byte) (sp : Bytes)
  /-- RESET (R195), command 0x0. -/
  | reset (ecuId : EcuId)
  /-- HANDLE_FRAME (R180), command 0x1. -/
  | handleFrame (raw : Bytes)
  /-- SET_DID (R187), command 0x2. -/
  | setDid (id : Did) (value : Bytes)
  /-- ADD_DTC (R189), command 0x3. -/
  | addDtc (code : Dtc)
  /-- CLEAR_DTC (R191), command 0x4. -/
  | clearDtc
  /-- READ_STATUS (R193), command 0x5. -/
  | readStatus
  /-- ENCODE_SF (R121), command 0x8. -/
  | encodeSf (payload : Bytes)
  /-- ENCODE_FF (R122), command 0x9. -/
  | encodeFf (chunk : Bytes) (totalLength : BitVec 16)
  /-- ENCODE_CF (R123), command 0xA. -/
  | encodeCf (chunk : Bytes) (sequenceNumber : BitVec 8)
  /-- DECODE (R124), command 0xB. -/
  | decode (raw : Bytes)
  /-- RESERVED_CMD_6_7 (R194): `low` is bit 0 of the command code. -/
  | reservedCmd6To7 (low : BitVec 1) (operands : Operands)
  /-- RESERVED_CMD_C_F (R194): `low` is bits 1 to 0 of the command code. -/
  | reservedCmdCToF (low : BitVec 2) (operands : Operands)
  deriving DecidableEq, Repr

end Sys2Proof
end

