-- ==== Sys2Proof/Machine/State.lean ====
section
/-! DEFINITION. The state: the record S of R32, the parameters of R9, whether a first RESET has happened (R43,
R242), and the host's side of the port: the transactions still to present and the results presented so
far (R102, R104, R247). Also the values on the result channel (R90, R104, R105) and the reasons a step stops. -/

namespace Sys2Proof.Machine

/-- A decoded frame (R90). `fc` is a kind of the data model that DECODE never produces (R128). -/
inductive Frame where
  | sf (length : BitVec 4) (data : Bytes)
  | ff (length : BitVec 12) (data : Bytes)
  | cf (sn : BitVec 4) (data : Bytes)
  | fc
  deriving DecidableEq, Repr

/-- DecodeErr of R105. -/
inductive DecodeErr where
  | emptyFrame
  | unknownFrameKind
  deriving DecidableEq, Repr

/-- ContractErr of R105. -/
inductive ContractErr where
  | payloadTooLarge
  | lengthOutOfRange
  | chunkTooLarge
  deriving DecidableEq, Repr

/-- FaultCode of R105. These are results of a transaction, after which the block goes on (R215); they are not
the reasons a step stops. -/
inductive FaultCode where
  | frameTooLong
  | shortFf
  | respOverflow
  | didValueTooLong
  | dtcFull
  | badCmd
  deriving DecidableEq, Repr

/-- The result channel (R104). -/
inductive Result where
  | bytes (b : Bytes)
  | frame (f : Frame)
  | done
  | status (w : BitVec 16)
  | decodeError (c : DecodeErr)
  | contractError (c : ContractErr)
  | fault (c : FaultCode)
  deriving DecidableEq, Repr

/-- What the transport decode of a raw frame yields (R14, R124): a frame, a decode error or a fault. -/
inductive Decoded where
  | frame (f : Frame)
  | error (e : DecodeErr)
  | fault (c : FaultCode)
  deriving DecidableEq, Repr

/-- The data-identifier store (R34, R61): the keys that hold a value, rising, each with its value.
A key that is not listed reads as `none`, which is every key's reset value (R42).
The rising order is a canonical form of the spec's map (DESIGN CHOICE, log 13, safe). -/
abbrev DidStore := List (Did × Bytes)

/-- The state record S (R32). -/
structure Ecu where
  /-- `session_active` (R33). -/
  sessionActive : Bool
  /-- `did` (R34). -/
  did : DidStore
  /-- `dtc`, in insertion order (R35). -/
  dtc : List Dtc
  /-- The fault latch: bit c - 1 is F_c, which STATUS shows as bit c (R36). -/
  fault : BitVec 6
  /-- `ecu_id` (R41). -/
  ecuId : EcuId
  deriving DecidableEq, Repr

/-- S after RESET with the identifier `id` (R42). -/
def Ecu.initial (id : EcuId) : Ecu where
  sessionActive := false
  did := []
  dtc := []
  fault := 0
  ecuId := id

/-- The machine's state. -/
structure State where
  /-- The parameters R9 leaves to the implementation; no transaction writes them (DESIGN CHOICE, log 11, safe). -/
  params : Params
  /-- Whether RESET has been performed. Before it S is undefined and only RESET has a move (R43, R242; DESIGN CHOICE,
  log 8, safe). -/
  constructed : Bool
  /-- The state record S, all the block keeps between transactions (R40). -/
  ecu : Ecu
  /-- The transactions the host has still to present, in order; the first is at the port (R102, R247).
  The block holds one at a time: this list is the host's, not a queue of the block (DESIGN CHOICE, log 4, safe). -/
  pending : List Transaction
  /-- The results presented so far, in order: with the final S, the observation of a run (R247). -/
  results : List Result
  deriving DecidableEq, Repr

/-- The reasons a step faults. -/
inductive Fault where
  /-- Raised by `step` when a transaction other than RESET is presented before the first RESET: S is undefined
  and the block is stuck (R43, R242, I15; log 8). Safe. -/
  | beforeFirstReset
  deriving DecidableEq, Repr

/-- The reasons a step is refused. -/
inductive Refusal where
  /-- An instruction that has no meaning yet. Safe. No arm of `exec` answers with it. -/
  | notModelled (mnemonic : String)
  /-- Raised by `step` for a byte-string operand longer than HOST_BUF_MAX, which the host never presents and for
  which the block has no move (R101, R230, I13; log 9). Safe. -/
  | operandTooLong
  deriving DecidableEq, Repr

/-- The machine right after RESET (R42, R240, R241): idle, with nothing presented.
The parameters are the defaults (log 2), `ecu_id` is empty (log 5) and the observation starts empty (log 4). -/
def State.reset : State where
  params := Params.default
  constructed := true
  ecu := Ecu.initial []
  pending := []
  results := []

end Sys2Proof.Machine
end

