-- ==== Sys2Proof/Machine/Flags.lean ====
section
/-! DEFINITION. The STATUS register and the sticky fault bits (R36, R37, R193), and the result code numbers of
R105. STATUS is not stored: it is read from the state it mirrors (R37). -/

namespace Sys2Proof.Machine

/-- The number of a fault, which is also its STATUS bit (R105). -/
def FaultCode.code : FaultCode → Nat
  | .frameTooLong => 1
  | .shortFf => 2
  | .respOverflow => 3
  | .didValueTooLong => 4
  | .dtcFull => 5
  | .badCmd => 6

/-- The number of a decode error (R105). -/
def DecodeErr.code : DecodeErr → Nat
  | .emptyFrame => 1
  | .unknownFrameKind => 2

/-- The number of a contract error (R105). -/
def ContractErr.code : ContractErr → Nat
  | .payloadTooLarge => 1
  | .lengthOutOfRange => 2
  | .chunkTooLarge => 3

/-- The latch with fault `c` set and every other bit kept: the bits are sticky (R37, R215). -/
def latch (c : FaultCode) (f : BitVec 6) : BitVec 6 :=
  f ||| (1#6 <<< (c.code - 1))

/-- Whether the latch shows fault `c`. -/
def latched (c : FaultCode) (f : BitVec 6) : Bool :=
  f.getLsbD (c.code - 1)

/-- STATUS: SESSION_ACTIVE in bit 0, the fault bits in bits 1 to 6, bit 7 always 0, DTC_COUNT in bits 15 to 8
(R36, R193), modulo 256 beyond what R35 allows (DESIGN CHOICE, log 16, safe). -/
def statusWord (e : Ecu) : BitVec 16 :=
  (BitVec.ofBool e.sessionActive).setWidth 16 ||| (e.fault.setWidth 16 <<< 1) ||| (BitVec.ofNat 16 e.dtc.length <<< 8)

end Sys2Proof.Machine
end

