-- ==== Sys2Proof/WellFormed.lean ====
section
/-! DEFINITION. Well-formed instructions: the two fallback rows stand only for what no earlier row matches
(R106), and a byte-string operand has at most HOST_BUF_MAX bytes (R101). -/

namespace Sys2Proof

/-- The SIDs that some row before SID_UNSUPPORTED matches (R95). -/
def isRoutedSid (sid : Byte) : Bool :=
  sid == 0x3E || sid == 0x10 || sid == 0x22 || sid == 0x19

/-- A service payload that begins with subfunction 0x01 or 0x02, which an earlier row than RDTCI_OTHER matches (R95). -/
def isRoutedSubfunction (sp : Bytes) : Bool :=
  sp.head? == some 0x01 || sp.head? == some 0x02

/-- Whether the instruction is the one that the table's first-match order gives its own words (R106). -/
def Instr.canonical : Instr → Bool
  | .rdtciOther sp => !isRoutedSubfunction sp
  | .sidUnsupported sid _ => !isRoutedSid sid
  | .pciSf _ _ | .pciFf _ _ | .pciCf _ _ | .pciFc _ _ | .pciReserved4To7 _ _ | .pciReserved8ToF _ _ => true
  | .testerPresent _ | .diagnosticSessionControl _ | .readDataByIdentifier _ => true
  | .readDtcInformation01 _ | .readDtcInformation02 _ => true
  | .reset _ | .handleFrame _ | .setDid _ _ | .addDtc _ | .clearDtc | .readStatus => true
  | .encodeSf _ | .encodeFf _ _ | .encodeCf _ _ | .decode _ => true
  | .reservedCmd6To7 _ _ | .reservedCmdCToF _ _ => true

/-- The length of the instruction's byte-string operand (R101): for a PCI row the raw frame, for a UDS_REQ row the
SingleFrame that carries the request (one PCI byte and the payload), for a HOST_CMD row its `Bytes` operand.
RESET's `ecu_id` is opaque and no `Bytes` operand, so it counts 0 (DEDUCED, log 12, safe). -/
def Instr.operandLength : Instr → Nat
  | .pciSf _ rest | .pciFf _ rest | .pciCf _ rest | .pciFc _ rest => rest.length + 1
  | .pciReserved4To7 _ rest => rest.length + 1
  | .pciReserved8ToF _ rest => rest.length + 1
  | .testerPresent sp | .diagnosticSessionControl sp | .readDataByIdentifier sp => sp.length + 2
  | .readDtcInformation01 rest | .readDtcInformation02 rest => rest.length + 3
  | .rdtciOther sp | .sidUnsupported _ sp => sp.length + 2
  | .handleFrame raw | .decode raw => raw.length
  | .setDid _ value => value.length
  | .encodeSf bytes | .encodeFf bytes _ | .encodeCf bytes _ => bytes.length
  | .reservedCmd6To7 _ ops => ops.bytes.length
  | .reservedCmdCToF _ ops => ops.bytes.length
  | .reset _ | .addDtc _ | .clearDtc | .readStatus => 0

/-- Whether the host can present the instruction: its byte string has at most HOST_BUF_MAX bytes (R101, R230). -/
def Instr.fits (hostBufMax : Nat) (i : Instr) : Bool :=
  decide (i.operandLength ≤ hostBufMax)

/-- The same length, of a transaction not yet decoded. -/
def Transaction.operandLength : Transaction → Nat
  | .command _ ops => ops.bytes.length
  | .frame _ rest => rest.length + 1
  | .request _ sp => sp.length + 2

/-- A well-formed instruction for a block whose longest byte-string operand is `hostBufMax`. -/
def Instr.wellFormed (hostBufMax : Nat) (i : Instr) : Bool :=
  i.canonical && i.fits hostBufMax

end Sys2Proof
end

