-- ==== Sys2Proof/Decode.lean ====
section
/-! DEFINITION. Decoding a presented transaction, from the encoding tables R85 (PCI), R95 (UDS_REQ) and R100
(HOST_CMD), and encoding an instruction from the same tables. Within a format the rows are tried in the
table's order and the first match wins (R106). -/

namespace Sys2Proof

/-- `b[7:4]` (R10). -/
def highNibble (b : Byte) : BitVec 4 := b.extractLsb' 4 4

/-- `b[3:0]` (R10). -/
def lowNibble (b : Byte) : BitVec 4 := b.extractLsb' 0 4

/-- The PCI format: byte 0 selects the frame kind (R85). -/
def decodePci (pci : Byte) (rest : Bytes) : Instr :=
  if pci &&& 0xF0 = 0x00 then .pciSf (lowNibble pci) rest
  else if pci &&& 0xF0 = 0x10 then .pciFf (lowNibble pci) rest
  else if pci &&& 0xF0 = 0x20 then .pciCf (lowNibble pci) rest
  else if pci &&& 0xF0 = 0x30 then .pciFc (lowNibble pci) rest
  else if pci &&& 0xC0 = 0x40 then .pciReserved4To7 (pci.extractLsb' 0 6) rest
  else .pciReserved8ToF (pci.extractLsb' 0 7) rest

/-- The UDS_REQ format: the SID, and for 0x19 the subfunction, select the service (R95). -/
def decodeSid (sid : Byte) (sp : Bytes) : Instr :=
  if sid = 0x3E then .testerPresent sp
  else if sid = 0x10 then .diagnosticSessionControl sp
  else if sid = 0x22 then .readDataByIdentifier sp
  else if sid = 0x19 then
    match sp with
    | [] => .rdtciOther []
    | sub :: rest =>
      if sub = 0x01 then .readDtcInformation01 rest
      else if sub = 0x02 then .readDtcInformation02 rest
      else .rdtciOther (sub :: rest)
  else .sidUnsupported sid sp

/-- The HOST_CMD format: the 4-bit command code selects the operation, which takes its lanes (R100, R103). -/
def decodeCommand (code : BitVec 4) (ops : Operands) : Instr :=
  if code = 0x0 then .reset ops.ecuId
  else if code = 0x1 then .handleFrame ops.bytes
  else if code = 0x2 then .setDid ops.did ops.bytes
  else if code = 0x3 then .addDtc ops.dtc
  else if code = 0x4 then .clearDtc
  else if code = 0x5 then .readStatus
  else if code = 0x8 then .encodeSf ops.bytes
  else if code = 0x9 then .encodeFf ops.bytes ops.totalLength
  else if code = 0xA then .encodeCf ops.bytes ops.sequenceNumber
  else if code = 0xB then .decode ops.bytes
  else if code &&& 0xE = 0x6 then .reservedCmd6To7 (code.extractLsb' 0 1) ops
  else .reservedCmdCToF (code.extractLsb' 0 2) ops

/-- Decoding a presented transaction. It is total: every code, every PCI byte and every SID has a row. -/
def decodeTransaction : Transaction → Instr
  | .command code ops => decodeCommand code ops
  | .frame pci rest => decodePci pci rest
  | .request sid sp => decodeSid sid sp

/-- Why a byte string on its own is no instruction of the two inner formats. -/
inductive DecodeReject where
  /-- The frame is empty and has no PCI byte (R85); the DECODE transaction answers EMPTY_FRAME for it. -/
  | noPciByte
  /-- The payload is empty and has no SID (R92). -/
  | noServiceIdentifier
  deriving DecidableEq, Repr

/-- The PCI row of a raw frame. -/
def decodeFrame : Bytes → Except DecodeReject Instr
  | [] => .error .noPciByte
  | pci :: rest => .ok (decodePci pci rest)

/-- The UDS_REQ row of a request payload. -/
def decodeRequest : Bytes → Except DecodeReject Instr
  | [] => .error .noServiceIdentifier
  | sid :: sp => .ok (decodeSid sid sp)

/-- The transaction that stands for an instruction, from the same tables; lanes a command does not take are
empty or 0. -/
def encode : Instr → Transaction
  | .pciSf sfDl rest => .frame (0x0#4 ++ sfDl) rest
  | .pciFf ffDlHi rest => .frame (0x1#4 ++ ffDlHi) rest
  | .pciCf sn rest => .frame (0x2#4 ++ sn) rest
  | .pciFc low rest => .frame (0x3#4 ++ low) rest
  | .pciReserved4To7 low rest => .frame (0b01#2 ++ low) rest
  | .pciReserved8ToF low rest => .frame (0b1#1 ++ low) rest
  | .testerPresent sp => .request 0x3E sp
  | .diagnosticSessionControl sp => .request 0x10 sp
  | .readDataByIdentifier sp => .request 0x22 sp
  | .readDtcInformation01 rest => .request 0x19 (0x01 :: rest)
  | .readDtcInformation02 rest => .request 0x19 (0x02 :: rest)
  | .rdtciOther sp => .request 0x19 sp
  | .sidUnsupported sid sp => .request sid sp
  | .reset ecuId => .command 0x0 { ecuId := ecuId }
  | .handleFrame raw => .command 0x1 { bytes := raw }
  | .setDid id value => .command 0x2 { did := id, bytes := value }
  | .addDtc code => .command 0x3 { dtc := code }
  | .clearDtc => .command 0x4 {}
  | .readStatus => .command 0x5 {}
  | .encodeSf payload => .command 0x8 { bytes := payload }
  | .encodeFf chunk totalLength => .command 0x9 { bytes := chunk, totalLength := totalLength }
  | .encodeCf chunk sequenceNumber => .command 0xA { bytes := chunk, sequenceNumber := sequenceNumber }
  | .decode raw => .command 0xB { bytes := raw }
  | .reservedCmd6To7 low ops => .command (0b011#3 ++ low) ops
  | .reservedCmdCToF low ops => .command (0b11#2 ++ low) ops

/-- The transaction whose opcode-table bits are `w`.
The three formats of the table share values, so a rule picks one (DESIGN CHOICE, log 6, safe): 16 bits are a
request's SID and subfunction, SID first; no bits are the row SID_UNSUPPORTED, which has no fixed bit; a value below
16 is a command code; a routed SID is a request; any other byte is a PCI byte.
A frame is filled with zeros to 8 bytes and a request to 7, the longest of each; a command's lanes are zero. -/
def tableTransaction (nbits w : Nat) : Transaction :=
  if nbits = 0 then .request (BitVec.ofNat 8 w) (List.replicate 6 0)
  else if 8 < nbits then .request (BitVec.ofNat 8 (w / 256)) (BitVec.ofNat 8 w :: List.replicate 5 0)
  else if w < 16 then .command (BitVec.ofNat 4 w) {}
  else if isRoutedSid (BitVec.ofNat 8 w) then .request (BitVec.ofNat 8 w) (List.replicate 6 0)
  else .frame (BitVec.ofNat 8 w) (List.replicate 7 0)

/-- The instruction that the decoder reads from the opcode-table bits `w`. -/
def decodeTableWord (nbits w : Nat) : Option Instr :=
  some (decodeTransaction (tableTransaction nbits w))

end Sys2Proof
end

