-- ==== Sys2Proof/Machine/Operands.lean ====
section
/-! DEFINITION. Field assembly and byte order (R64 to R67, R97): how frames, requests and responses are put
together from fields and taken apart. -/

namespace Sys2Proof.Machine

/-- FF_DL from the low nibble of byte 0 and byte 1 (R65). -/
def ffDl (hi : BitVec 4) (lo : Byte) : BitVec 12 :=
  (hi.setWidth 12 <<< 8) ||| lo.setWidth 12

/-- The DID from service-payload bytes 0 and 1, high byte first (R66). -/
def didOf (hi lo : Byte) : Did :=
  (hi.setWidth 16 <<< 8) ||| lo.setWidth 16

/-- The 3-byte big-endian encoding of a fault code (R67). -/
def dtcBytes (c : Dtc) : Bytes :=
  [c.extractLsb' 16 8, c.extractLsb' 8 8, c.extractLsb' 0 8]

/-- The session type: service-payload byte 0, or 0x00 when it is absent (R97, R156). -/
def sessionType (sp : Bytes) : Byte := sp.headD 0x00

/-- The data of a SingleFrame, `raw[1..1+n)` clamped to the bytes present; `rest` is `raw[1..]` (R125). -/
def sfData (n : BitVec 4) (rest : Bytes) : Bytes := rest.take n.toNat

/-- The chunk of a FirstFrame, `raw[2..8)` as present; `after` is `raw[2..]` (R126). -/
def ffData (after : Bytes) : Bytes := after.take Config.ffCap

/-- A SingleFrame of a payload, without padding (R86, R97). -/
def sfBytes (payload : Bytes) : Bytes :=
  (0x00 ||| BitVec.ofNat 8 payload.length) :: payload

/-- A FirstFrame of a total length and a chunk, without padding (R87, R97). -/
def ffBytes (totalLength : BitVec 16) (chunk : Bytes) : Bytes :=
  (0x10 ||| (totalLength >>> 8).setWidth 8) :: (totalLength &&& 0xFF).setWidth 8 :: chunk

/-- A ConsecutiveFrame of a sequence number, whose low nibble alone is used, and a chunk (R88, R97). -/
def cfBytes (sequenceNumber : BitVec 8) (chunk : Bytes) : Bytes :=
  (0x20 ||| (sequenceNumber &&& 0xF)) :: chunk

/-- The negative response `[0x7F, 0x00, nrc]` (R94, R154). -/
def negativeResponse (nrc : Byte) : Bytes := [0x7F, 0x00, nrc]

/-- TE(nrc), the transport-level negative response: bare, or wrapped in a SingleFrame when
WRAP_TRANSPORT_ERRORS is set (R99, R180). -/
def transportError (p : Params) (nrc : Byte) : Bytes :=
  if p.wrapTransportErrors then 0x03 :: negativeResponse nrc else negativeResponse nrc

/-- The list of stored codes in a ReadDTCInformation 0x02 response: three bytes and a zero status byte each (R160). -/
def dtcRecords (codes : List Dtc) : Bytes :=
  codes.flatMap fun c => dtcBytes c ++ [0x00]

/-- A chunk fitted to a frame's capacity under OVERSIZE_POLICY: itself where it fits, else nothing
(CONTRACT_ERROR) or its first bytes (TRUNCATE) (R122, R123). -/
def fitChunk (policy : OversizePolicy) (cap : Nat) (chunk : Bytes) : Option Bytes :=
  if cap < chunk.length then
    match policy with
    | .contractError => none
    | .truncate => some (chunk.take cap)
  else some chunk

end Sys2Proof.Machine
end

