-- ==== Sys2Proof/Machine/Ops.lean ====
section
/-! DEFINITION. The named operations: the store primitives of R13, the result channel, `raise Fault` (R215), which is
all the block has of exception entry (R220), and what the host may present (R230). There is no return from an
exception: the result goes to the host and the block is ready for the next transaction (R221). -/

namespace Sys2Proof.Machine

/-- The store's canonical form: keys strictly rising, hence unique (R34). -/
abbrev DidStore.wf (m : DidStore) : Prop :=
  m.Pairwise fun a b => a.1.toNat < b.1.toNat

/-- `DidRead(id)` (R61). -/
def didRead : DidStore → Did → Option Bytes
  | [], _ => none
  | (key, value) :: rest, id => if key = id then some value else didRead rest id

/-- `DidWrite(id, v)`: inserts or overwrites the whole value, keeping the keys rising (R61, R70). -/
def didWrite : DidStore → Did → Bytes → DidStore
  | [], id, v => [(id, v)]
  | (key, value) :: rest, id, v =>
    if id.toNat < key.toNat then (id, v) :: (key, value) :: rest
    else if id = key then (id, v) :: rest
    else (key, value) :: didWrite rest id v

/-- `DtcAppend(c)` (R62). -/
def dtcAppend (codes : List Dtc) (c : Dtc) : List Dtc := codes ++ [c]

/-- `DtcClear()` (R62). -/
def dtcClear (_codes : List Dtc) : List Dtc := []

/-- Ends a transaction with a result on the result channel (R14, R104). -/
def present (r : Result) (s : State) : State :=
  { s with results := s.results ++ [r] }

/-- Commits a new state record. -/
def setEcu (e : Ecu) (s : State) : State := { s with ecu := e }

/-- The state record with fault `c` latched and every other component kept (R215). -/
def latchFault (c : FaultCode) (e : Ecu) : Ecu := { e with fault := latch c e.fault }

/-- `raise Fault(c)` (R215): sets STATUS bit c, leaves every other component of S, and ends the transaction with
FAULT(c). The block then accepts the next transaction. -/
def raiseFault (c : FaultCode) (s : State) : State :=
  present (.fault c) (setEcu (latchFault c s.ecu) s)

/-- Ends a DECODE with what the transport decode yields (R14, R124). -/
def presentDecoded (d : Decoded) (s : State) : State :=
  match d with
  | .frame f => present (.frame f) s
  | .error e => present (.decodeError e) s
  | .fault c => raiseFault c s

/-- Ends a HANDLE_FRAME with the router's outcome, a state record and a response payload: a payload longer than
SF_CAP faults and its state record is discarded (R185), any other is committed and returned as a SingleFrame (R184). -/
def respond (outcome : Ecu × Bytes) (s : State) : State :=
  if Config.sfCap < outcome.2.length then raiseFault .respOverflow s
  else present (.bytes (sfBytes outcome.2)) (setEcu outcome.1 s)

/-- Whether the instruction is RESET. -/
def isReset : Instr → Bool
  | .reset _ => true
  | _ => false

/-- Whether the block is in a state in which the instruction has a move: after the first RESET any has, before it
only RESET (R242). -/
def hasMove (i : Instr) (s : State) : Bool := s.constructed || isReset i

/-- Whether the host can present the instruction: its byte string fits HOST_BUF_MAX (R101, R230). -/
def operandFits (i : Instr) (s : State) : Bool := i.fits s.params.hostBufMax

end Sys2Proof.Machine
end

