-- ==== Sys2Proof/Machine/Codec.lean ====
section
/-! DEFINITION. The Transport Codec (R120 to R132): the four codec transactions ENCODE_SF, ENCODE_FF, ENCODE_CF and
DECODE, and the six PCI rows, each of which is DECODE of a raw frame of that kind (R125 to R128; DESIGN CHOICE, log 1,
safe). -/

namespace Sys2Proof.Machine

/-- A FirstFrame's decode, from the low nibble of byte 0 and `raw[1..]`: without a length low byte it faults (R126). -/
def decodeFf (hi : BitVec 4) (rest : Bytes) : Decoded :=
  match rest with
  | [] => .fault .shortFf
  | lo :: after => .frame (.ff (ffDl hi lo) (ffData after))

/-- DECODE(raw) (R124): length above MAX_FRAME_LEN, then emptiness, then the kind, then the FirstFrame's length
byte (R219). -/
def codecDecode (raw : Bytes) : Decoded :=
  if Config.maxFrameLen < raw.length then .fault .frameTooLong
  else
    match raw with
    | [] => .error .emptyFrame
    | b0 :: rest =>
      if highNibble b0 = 0x0 then .frame (.sf (lowNibble b0) (sfData (lowNibble b0) rest))
      else if highNibble b0 = 0x1 then decodeFf (lowNibble b0) rest
      else if highNibble b0 = 0x2 then .frame (.cf (lowNibble b0) rest)
      else .error .unknownFrameKind

/-- The length check that comes first in DECODE, for a frame of which `rest` follows byte 0 (R124, R219). -/
def lengthChecked (rest : Bytes) (d : Decoded) : Decoded :=
  if Config.maxFrameLen < rest.length + 1 then .fault .frameTooLong else d

/-- ENCODE_SF (R121). -/
def execEncodeSf (payload : Bytes) (s : State) : Host.Outcome State Fault Refusal :=
  if Config.sfCap < payload.length then .next (present (.contractError .payloadTooLarge) s)
  else .next (present (.bytes (sfBytes payload)) s)

/-- ENCODE_FF (R122): `total_length` is checked before the chunk's size (R219). -/
def execEncodeFf (chunk : Bytes) (totalLength : BitVec 16) (s : State) : Host.Outcome State Fault Refusal :=
  if Config.ffLenMax < totalLength.toNat then .next (present (.contractError .lengthOutOfRange) s)
  else
    match fitChunk s.params.oversizePolicy Config.ffCap chunk with
    | none => .next (present (.contractError .chunkTooLarge) s)
    | some c => .next (present (.bytes (ffBytes totalLength c)) s)

/-- ENCODE_CF (R123): the sequence number never causes an error. -/
def execEncodeCf (chunk : Bytes) (sequenceNumber : BitVec 8) (s : State) : Host.Outcome State Fault Refusal :=
  match fitChunk s.params.oversizePolicy Config.cfCap chunk with
  | none => .next (present (.contractError .chunkTooLarge) s)
  | some c => .next (present (.bytes (cfBytes sequenceNumber c)) s)

/-- DECODE (R124). -/
def execDecode (raw : Bytes) (s : State) : Host.Outcome State Fault Refusal :=
  .next (presentDecoded (codecDecode raw) s)

/-- PCI_SF (R125). -/
def execPciSf (sfDl : BitVec 4) (rest : Bytes) (s : State) : Host.Outcome State Fault Refusal :=
  .next (presentDecoded (lengthChecked rest (.frame (.sf sfDl (sfData sfDl rest)))) s)

/-- PCI_FF (R126). -/
def execPciFf (ffDlHi : BitVec 4) (rest : Bytes) (s : State) : Host.Outcome State Fault Refusal :=
  .next (presentDecoded (lengthChecked rest (decodeFf ffDlHi rest)) s)

/-- PCI_CF (R127). -/
def execPciCf (sn : BitVec 4) (rest : Bytes) (s : State) : Host.Outcome State Fault Refusal :=
  .next (presentDecoded (lengthChecked rest (.frame (.cf sn rest))) s)

/-- PCI_FC (R128): recognised only as an unknown kind. -/
def execPciFc (_low : BitVec 4) (rest : Bytes) (s : State) : Host.Outcome State Fault Refusal :=
  .next (presentDecoded (lengthChecked rest (.error .unknownFrameKind)) s)

/-- PCI_RESERVED_4_7 (R128). -/
def execPciReserved4To7 (_low : BitVec 6) (rest : Bytes) (s : State) : Host.Outcome State Fault Refusal :=
  .next (presentDecoded (lengthChecked rest (.error .unknownFrameKind)) s)

/-- PCI_RESERVED_8_F (R128). -/
def execPciReserved8ToF (_low : BitVec 7) (rest : Bytes) (s : State) : Host.Outcome State Fault Refusal :=
  .next (presentDecoded (lengthChecked rest (.error .unknownFrameKind)) s)

end Sys2Proof.Machine
end

