-- ==== Sys2Proof/Machine/Router.lean ====
section
/-! DEFINITION. The CRC stage (R150) and the Service Dispatcher (R151 to R165). A service takes the state record and its
request's bytes to a new state record and a response payload. A UDS_REQ row on its own is the HANDLE_FRAME
transaction whose SingleFrame carries that request, from the router on (R184, R185; DESIGN CHOICE, log 1, safe), and runs
for a request of any length (DESIGN CHOICE, log 10, safe). -/

namespace Sys2Proof.Machine

/-- The CRC stage (R150): it accepts every payload, consumes no byte and passes the payload on unchanged. -/
def crcStage (payload : Bytes) : Bytes := payload

/-- TesterPresent (R155). -/
def serveTesterPresent (e : Ecu) : Ecu × Bytes := (e, [0x7E])

/-- DiagnosticSessionControl (R156): it sets `session_active` and echoes the session type. -/
def serveSessionControl (e : Ecu) (sp : Bytes) : Ecu × Bytes :=
  ({ e with sessionActive := true }, [0x50, sessionType sp])

/-- ReadDataByIdentifier (R157): an unknown identifier reads as one zero byte. -/
def serveReadDid (e : Ecu) (sp : Bytes) : Ecu × Bytes :=
  match sp with
  | hi :: lo :: _ => (e, [0x62, hi, lo] ++ (didRead e.did (didOf hi lo)).getD [0x00])
  | _ => (e, negativeResponse 0x13)

/-- ReadDTCInformation 0x01 (R159). The count is one byte: modulo 256 beyond what R35 allows (DESIGN CHOICE, log 16,
safe). -/
def serveDtcCount (e : Ecu) : Ecu × Bytes :=
  (e, [0x59, 0x01, 0x00, BitVec.ofNat 8 e.dtc.length, 0x00])

/-- ReadDTCInformation 0x02 (R160). -/
def serveDtcList (e : Ecu) : Ecu × Bytes := (e, [0x59, 0x02] ++ dtcRecords e.dtc)

/-- Negative response 0x12, for another subfunction of 0x19 (R161) and for an unrouted SID (R162). -/
def serveUnsupported (e : Ecu) : Ecu × Bytes := (e, negativeResponse 0x12)

/-- Dispatch(S, p) for p = sid :: sp (R152). -/
def dispatch (e : Ecu) (sid : Byte) (sp : Bytes) : Ecu × Bytes :=
  if sid = 0x3E then serveTesterPresent e
  else if sid = 0x10 then serveSessionControl e sp
  else if sid = 0x22 then serveReadDid e sp
  else if sid = 0x19 then
    if sp.head? = some 0x01 then serveDtcCount e
    else if sp.head? = some 0x02 then serveDtcList e
    else serveUnsupported e
  else serveUnsupported e

/-- TesterPresent (R155). -/
def execTesterPresent (_sp : Bytes) (s : State) : Host.Outcome State Fault Refusal :=
  .next (respond (serveTesterPresent s.ecu) s)

/-- DiagnosticSessionControl (R156). -/
def execDiagnosticSessionControl (sp : Bytes) (s : State) : Host.Outcome State Fault Refusal :=
  .next (respond (serveSessionControl s.ecu sp) s)

/-- ReadDataByIdentifier (R157). -/
def execReadDataByIdentifier (sp : Bytes) (s : State) : Host.Outcome State Fault Refusal :=
  .next (respond (serveReadDid s.ecu sp) s)

/-- ReadDTCInformation_01 (R159). -/
def execReadDtcInformation01 (_rest : Bytes) (s : State) : Host.Outcome State Fault Refusal :=
  .next (respond (serveDtcCount s.ecu) s)

/-- ReadDTCInformation_02 (R160): no status mask byte is read. -/
def execReadDtcInformation02 (_rest : Bytes) (s : State) : Host.Outcome State Fault Refusal :=
  .next (respond (serveDtcList s.ecu) s)

/-- RDTCI_OTHER (R161). -/
def execRdtciOther (_sp : Bytes) (s : State) : Host.Outcome State Fault Refusal :=
  .next (respond (serveUnsupported s.ecu) s)

/-- SID_UNSUPPORTED (R162). -/
def execSidUnsupported (_sid : Byte) (_sp : Bytes) (s : State) : Host.Outcome State Fault Refusal :=
  .next (respond (serveUnsupported s.ecu) s)

end Sys2Proof.Machine
end

