-- ==== Sys2Proof/Machine/Session.lean ====
section
/-! DEFINITION. The ECU Session (R180 to R195): HANDLE_FRAME, the configuration transactions SET_DID, ADD_DTC and
CLEAR_DTC, and the control transactions READ_STATUS, RESET and the reserved command codes. -/

namespace Sys2Proof.Machine

/-- HANDLE_FRAME's steps 3 to 5 on a SingleFrame's data: an empty payload (R183), else the CRC stage, the router and
the response (R184, R185). -/
def handlePayload (data : Bytes) (s : State) : State :=
  match crcStage data with
  | [] => present (.bytes (0x03 :: negativeResponse 0x12)) s
  | sid :: sp => respond (dispatch s.ecu sid sp) s

/-- HANDLE_FRAME on the outcome of its transport decode: a fault ends it, a decode error (R181) and a frame that is
no SingleFrame (R182) are answered on the transport level. -/
def handleDecoded (d : Decoded) (s : State) : State :=
  match d with
  | .fault c => raiseFault c s
  | .error _ => present (.bytes (transportError s.params 0x12)) s
  | .frame (.sf _ data) => handlePayload data s
  | .frame (.ff _ _) => present (.bytes (transportError s.params 0x31)) s
  | .frame (.cf _ _) => present (.bytes (transportError s.params 0x31)) s
  | .frame .fc => present (.bytes (transportError s.params 0x31)) s

/-- HANDLE_FRAME (R180). -/
def execHandleFrame (raw : Bytes) (s : State) : Host.Outcome State Fault Refusal :=
  .next (handleDecoded (codecDecode raw) s)

/-- SET_DID (R187, R188). -/
def execSetDid (id : Did) (value : Bytes) (s : State) : Host.Outcome State Fault Refusal :=
  if s.params.didValMax < value.length then .next (raiseFault .didValueTooLong s)
  else .next (present .done (setEcu { s.ecu with did := didWrite s.ecu.did id value } s))

/-- ADD_DTC (R189, R190). The store is full when it holds exactly DTC_CAP codes (DEDUCED, log 15, safe). -/
def execAddDtc (code : Dtc) (s : State) : Host.Outcome State Fault Refusal :=
  if s.ecu.dtc.length = s.params.dtcCap then .next (raiseFault .dtcFull s)
  else .next (present .done (setEcu { s.ecu with dtc := dtcAppend s.ecu.dtc code } s))

/-- CLEAR_DTC (R191). -/
def execClearDtc (s : State) : Host.Outcome State Fault Refusal :=
  .next (present .done (setEcu { s.ecu with dtc := dtcClear s.ecu.dtc } s))

/-- READ_STATUS (R193). -/
def execReadStatus (s : State) : Host.Outcome State Fault Refusal :=
  .next (present (.status (statusWord s.ecu)) s)

/-- RESET (R195): all of S to its reset value, with the identifier kept; from here on the block has a state (R242). -/
def execReset (id : EcuId) (s : State) : Host.Outcome State Fault Refusal :=
  .next (present .done { s with constructed := true, ecu := Ecu.initial id })

/-- RESERVED_CMD_6_7 (R194): the operands are ignored. -/
def execReservedCmd6To7 (_low : BitVec 1) (_operands : Operands) (s : State) : Host.Outcome State Fault Refusal :=
  .next (raiseFault .badCmd s)

/-- RESERVED_CMD_C_F (R194): the operands are ignored. -/
def execReservedCmdCToF (_low : BitVec 2) (_operands : Operands) (s : State) : Host.Outcome State Fault Refusal :=
  .next (raiseFault .badCmd s)

end Sys2Proof.Machine
end

