-- ==== Sys2Proof/Machine/Dispatch.lean ====
section
/-! DEFINITION. The dispatch: one arm per instruction, each a direct call of its meaning. -/

namespace Sys2Proof.Machine

/-- What an instruction does to the state, by its row of the opcode table. -/
def exec (i : Instr) (s : State) : Host.Outcome State Fault Refusal :=
  match i with
  | .pciSf sfDl rest => Sys2Proof.Machine.execPciSf sfDl rest s
  | .pciFf ffDlHi rest => Sys2Proof.Machine.execPciFf ffDlHi rest s
  | .pciCf sn rest => Sys2Proof.Machine.execPciCf sn rest s
  | .pciFc low rest => Sys2Proof.Machine.execPciFc low rest s
  | .pciReserved4To7 low rest => Sys2Proof.Machine.execPciReserved4To7 low rest s
  | .pciReserved8ToF low rest => Sys2Proof.Machine.execPciReserved8ToF low rest s
  | .testerPresent sp => Sys2Proof.Machine.execTesterPresent sp s
  | .diagnosticSessionControl sp => Sys2Proof.Machine.execDiagnosticSessionControl sp s
  | .readDataByIdentifier sp => Sys2Proof.Machine.execReadDataByIdentifier sp s
  | .readDtcInformation01 rest => Sys2Proof.Machine.execReadDtcInformation01 rest s
  | .readDtcInformation02 rest => Sys2Proof.Machine.execReadDtcInformation02 rest s
  | .rdtciOther sp => Sys2Proof.Machine.execRdtciOther sp s
  | .sidUnsupported sid sp => Sys2Proof.Machine.execSidUnsupported sid sp s
  | .reset ecuId => Sys2Proof.Machine.execReset ecuId s
  | .handleFrame raw => Sys2Proof.Machine.execHandleFrame raw s
  | .setDid id value => Sys2Proof.Machine.execSetDid id value s
  | .addDtc code => Sys2Proof.Machine.execAddDtc code s
  | .clearDtc => Sys2Proof.Machine.execClearDtc s
  | .readStatus => Sys2Proof.Machine.execReadStatus s
  | .encodeSf payload => Sys2Proof.Machine.execEncodeSf payload s
  | .encodeFf chunk totalLength => Sys2Proof.Machine.execEncodeFf chunk totalLength s
  | .encodeCf chunk sequenceNumber => Sys2Proof.Machine.execEncodeCf chunk sequenceNumber s
  | .decode raw => Sys2Proof.Machine.execDecode raw s
  | .reservedCmd6To7 low operands => Sys2Proof.Machine.execReservedCmd6To7 low operands s
  | .reservedCmdCToF low operands => Sys2Proof.Machine.execReservedCmdCToF low operands s

end Sys2Proof.Machine
end

