-- ==== Sys2Proof/Machine/Step.lean ====
section
/-! DEFINITION. The step: take the transaction at the port, decode it and perform it to completion (R7, R102). With
nothing at the port the block is idle and waits (R241). No time is modelled (R246; DESIGN CHOICE, log 17, safe). -/

namespace Sys2Proof.Machine

/-- One transaction. Before the first RESET only RESET has a move (R242), and an operand the host cannot present has
none (R230). -/
def step (s : State) : Host.Outcome State Fault Refusal :=
  match s.pending with
  | [] => .next s
  | t :: rest =>
    if hasMove (decodeTransaction t) s = false then .fault .beforeFirstReset
    else if operandFits (decodeTransaction t) s = false then .refused .operandTooLong
    else exec (decodeTransaction t) { s with pending := rest }

/-- The state with the transaction of the opcode-table bits `w` at the port, ahead of whatever the host would present
next. The block has no program: the host presents each transaction (R31; DESIGN CHOICE,
log 7, safe). -/
def State.withFetchWord (s : State) (nbits w : Nat) : State :=
  { s with pending := tableTransaction nbits w :: s.pending }

end Sys2Proof.Machine
end

