-- ==== Sys2Proof/Safety.lean ====
section
/-! DEFINITION. The terms that claims about the block use: the fixed bits of the opcode table's rows, how a transaction
ends, and the invariant of the states a run reaches. -/

namespace Sys2Proof

/-- The fixed bits of one row of the opcode table: a mask, and the value the masked words must have (R106). -/
inductive TableRow where
  /-- A PCI row: byte 0 of a raw frame (R85). -/
  | pci (mask value : Byte)
  /-- A UDS_REQ row on the SID (R95). -/
  | service (mask value : Byte)
  /-- A UDS_REQ row on SID and subfunction, `(p[0] << 8) | p[1]` (R95, R106). -/
  | subfunction (mask value : BitVec 16)
  /-- A HOST_CMD row: the 4-bit command code (R100). -/
  | host (mask value : BitVec 4)
  deriving DecidableEq, Repr

/-- Whether a presented transaction is of the row's format and its words have the row's fixed bits (R106). -/
def TableRow.covers : TableRow → Transaction → Bool
  | .pci mask value, .frame b _ => b &&& mask == value
  | .pci _ _, .command _ _ => false
  | .pci _ _, .request _ _ => false
  | .service mask value, .request sid _ => sid &&& mask == value
  | .service _ _, .command _ _ => false
  | .service _ _, .frame _ _ => false
  | .subfunction mask value, .request sid (sub :: _) => (sid ++ sub) &&& mask == value
  | .subfunction _ _, .request _ [] => false
  | .subfunction _ _, .command _ _ => false
  | .subfunction _ _, .frame _ _ => false
  | .host mask value, .command code _ => code &&& mask == value
  | .host _ _, .frame _ _ => false
  | .host _ _, .request _ _ => false

/-- The opcode table's masks and values, in its order, transcribed from spec/opcode_table.json. -/
def opcodeTable : List TableRow :=
  [.pci 0xF0 0x00, .pci 0xF0 0x10, .pci 0xF0 0x20, .pci 0xF0 0x30, .pci 0xC0 0x40, .pci 0x80 0x80] ++
  [.service 0xFF 0x3E, .service 0xFF 0x10, .service 0xFF 0x22, .subfunction 0xFFFF 0x1901,
    .subfunction 0xFFFF 0x1902, .service 0xFF 0x19, .service 0x00 0x00] ++
  [.host 0xF 0x0, .host 0xF 0x1, .host 0xF 0x2, .host 0xF 0x3, .host 0xF 0x4, .host 0xF 0x5] ++
  [.host 0xF 0x8, .host 0xF 0x9, .host 0xF 0xA, .host 0xF 0xB, .host 0xE 0x6, .host 0xC 0xC]

/-- The place of the instruction's row in the opcode table, counted from 0. -/
def Instr.row : Instr → Nat
  | .pciSf _ _ => 0
  | .pciFf _ _ => 1
  | .pciCf _ _ => 2
  | .pciFc _ _ => 3
  | .pciReserved4To7 _ _ => 4
  | .pciReserved8ToF _ _ => 5
  | .testerPresent _ => 6
  | .diagnosticSessionControl _ => 7
  | .readDataByIdentifier _ => 8
  | .readDtcInformation01 _ => 9
  | .readDtcInformation02 _ => 10
  | .rdtciOther _ => 11
  | .sidUnsupported _ _ => 12
  | .reset _ => 13
  | .handleFrame _ => 14
  | .setDid _ _ => 15
  | .addDtc _ => 16
  | .clearDtc => 17
  | .readStatus => 18
  | .encodeSf _ => 19
  | .encodeFf _ _ => 20
  | .encodeCf _ _ => 21
  | .decode _ => 22
  | .reservedCmd6To7 _ _ => 23
  | .reservedCmdCToF _ _ => 24

end Sys2Proof

namespace Sys2Proof.Machine

/-- The state after a transaction that leaves S as `e` and ends in result `r` (R14): everything else is unchanged. -/
def State.after (s : State) (e : Ecu) (r : Result) : State :=
  { s with ecu := e, results := s.results ++ [r] }

/-- The state after `raise Fault(c)` (R215), said without the machine's own operations: bit c of STATUS set, every
other component of S unchanged, result FAULT(c). -/
def State.faulted (s : State) (c : FaultCode) : State :=
  s.after { s.ecu with fault := s.ecu.fault ||| BitVec.twoPow 6 (c.code - 1) } (.fault c)

/-- Every stored data-identifier value has at most DID_VAL_MAX bytes (R34). -/
abbrev valuesFit (p : Params) (m : DidStore) : Prop := ∀ entry ∈ m, entry.2.length ≤ p.didValMax

/-- The invariant of the block: the parameters lie in the ranges of R9, the store is in canonical form with unique
keys and its values fit (R34), and the fault-code store holds at most DTC_CAP codes (R35). -/
structure State.Inv (s : State) : Prop where
  params : s.params.wf
  didSorted : s.ecu.did.wf
  didFits : valuesFit s.params s.ecu.did
  dtcFits : s.ecu.dtc.length ≤ s.params.dtcCap

end Sys2Proof.Machine
end

