-- ==== Sys2Proof/Certificates/Slice0/Obligations.lean ====
section
/-! DEFINITION. The statements about the block, from the numbered rules of the spec. Parameters are arguments:
every statement holds for every value of `s.params` unless it says otherwise. -/

section
open Sys2Proof
open Sys2Proof.Machine

/-! ### Encodings -/

/-- R85, R95, R100: words written out from the encoding tables decode to the instructions they stand for. A frame or
a request presented on its own is the model's view of an inner format (log 1). -/
def Obligations.SpecWordsDecode : Prop :=
  decodeTransaction (.frame 0b00000011 [0x22, 0x01, 0x02]) = .pciSf 3 [0x22, 0x01, 0x02] ∧
  decodeTransaction (.frame 0b00011111 [0xFF]) = .pciFf 15 [0xFF] ∧
  decodeTransaction (.frame 0b00100001 [0x44]) = .pciCf 1 [0x44] ∧
  decodeTransaction (.frame 0b00110000 []) = .pciFc 0 [] ∧
  decodeTransaction (.frame 0b01111111 [0x00, 0x12]) = .pciReserved4To7 0x3F [0x00, 0x12] ∧
  decodeTransaction (.frame 0b11110000 []) = .pciReserved8ToF 0x70 [] ∧
  decodeTransaction (.request 0b00111110 [0x80]) = .testerPresent [0x80] ∧
  decodeTransaction (.request 0b00100010 [0xF1, 0x90]) = .readDataByIdentifier [0xF1, 0x90] ∧
  decodeTransaction (.request 0b00011001 [0x01]) = .readDtcInformation01 [] ∧
  decodeTransaction (.request 0b00011001 [0x0A]) = .rdtciOther [0x0A] ∧
  decodeTransaction (.command 0b0010 { did := 0x0102, bytes := [0xAB] }) = .setDid 0x0102 [0xAB] ∧
  decodeTransaction (.command 0b1011 { bytes := [0x30] }) = .decode [0x30]

/-- R85: the high nibble of byte 0 selects the frame kind, and no bit of the low nibble is lost. A frame or a request
presented on its own is the model's view of an inner format (log 1). -/
def Obligations.FrameKindFromHighNibble : Prop :=
  ∀ (b : Byte) (rest : Bytes),
    (b.toNat / 16 = 0 → decodeTransaction (.frame b rest) = .pciSf (BitVec.ofNat 4 b.toNat) rest) ∧
    (b.toNat / 16 = 1 → decodeTransaction (.frame b rest) = .pciFf (BitVec.ofNat 4 b.toNat) rest) ∧
    (b.toNat / 16 = 2 → decodeTransaction (.frame b rest) = .pciCf (BitVec.ofNat 4 b.toNat) rest) ∧
    (b.toNat / 16 = 3 → decodeTransaction (.frame b rest) = .pciFc (BitVec.ofNat 4 b.toNat) rest) ∧
    (4 ≤ b.toNat / 16 ∧ b.toNat / 16 ≤ 7 →
      decodeTransaction (.frame b rest) = .pciReserved4To7 (BitVec.ofNat 6 b.toNat) rest) ∧
    (8 ≤ b.toNat / 16 → decodeTransaction (.frame b rest) = .pciReserved8ToF (BitVec.ofNat 7 b.toNat) rest)

/-- R95: the SID, and for 0x19 the subfunction, select the service. A frame or a request presented on its own is the
model's view of an inner format (log 1). -/
def Obligations.ServiceRoutingMap : Prop :=
  (∀ sp, decodeTransaction (.request 0x3E sp) = .testerPresent sp) ∧
  (∀ sp, decodeTransaction (.request 0x10 sp) = .diagnosticSessionControl sp) ∧
  (∀ sp, decodeTransaction (.request 0x22 sp) = .readDataByIdentifier sp) ∧
  (∀ rest, decodeTransaction (.request 0x19 (0x01 :: rest)) = .readDtcInformation01 rest) ∧
  (∀ rest, decodeTransaction (.request 0x19 (0x02 :: rest)) = .readDtcInformation02 rest) ∧
  decodeTransaction (.request 0x19 []) = .rdtciOther [] ∧
  (∀ (sub : Byte) (rest : Bytes), sub ≠ 0x01 → sub ≠ 0x02 →
    decodeTransaction (.request 0x19 (sub :: rest)) = .rdtciOther (sub :: rest)) ∧
  (∀ (sid : Byte) (sp : Bytes), sid ≠ 0x3E → sid ≠ 0x10 → sid ≠ 0x22 → sid ≠ 0x19 →
    decodeTransaction (.request sid sp) = .sidUnsupported sid sp)

/-- R100, R103: the 16 command codes and the operands each command takes. The operand lanes are the model's (log 3). -/
def Obligations.CommandCodeMap : Prop :=
  ∀ ops : Operands,
    decodeTransaction (.command 0x0 ops) = .reset ops.ecuId ∧
    decodeTransaction (.command 0x1 ops) = .handleFrame ops.bytes ∧
    decodeTransaction (.command 0x2 ops) = .setDid ops.did ops.bytes ∧
    decodeTransaction (.command 0x3 ops) = .addDtc ops.dtc ∧
    decodeTransaction (.command 0x4 ops) = .clearDtc ∧
    decodeTransaction (.command 0x5 ops) = .readStatus ∧
    decodeTransaction (.command 0x8 ops) = .encodeSf ops.bytes ∧
    decodeTransaction (.command 0x9 ops) = .encodeFf ops.bytes ops.totalLength ∧
    decodeTransaction (.command 0xA ops) = .encodeCf ops.bytes ops.sequenceNumber ∧
    decodeTransaction (.command 0xB ops) = .decode ops.bytes ∧
    (∀ low : BitVec 1, decodeTransaction (.command (BitVec.ofNat 4 (6 + low.toNat)) ops) = .reservedCmd6To7 low ops) ∧
    (∀ low : BitVec 2, decodeTransaction (.command (BitVec.ofNat 4 (12 + low.toNat)) ops) = .reservedCmdCToF low ops)

/-- R85, R95, R100, R106: decoding the encoding of an instruction gives it back, with every operand at every value. A
frame or a request presented on its own is the model's view of an inner format (log 1). -/
def Obligations.DecodeOfEncode : Prop :=
  ∀ i : Instr, i.canonical = true → decodeTransaction (encode i) = i

/-- R85, R95, R100: no bit of a presented transaction that its row reads is dropped. A frame and a request are
encoded back exactly; a command keeps its code and everything its command reads. A frame or a request presented on
its own is the model's view of an inner format (log 1). -/
def Obligations.EncodeOfDecode : Prop :=
  (∀ (b : Byte) (rest : Bytes), encode (decodeTransaction (.frame b rest)) = .frame b rest) ∧
  (∀ (sid : Byte) (sp : Bytes), encode (decodeTransaction (.request sid sp)) = .request sid sp) ∧
  (∀ (code : BitVec 4) (ops : Operands), ∃ ops',
    encode (decodeTransaction (.command code ops)) = .command code ops' ∧
    decodeTransaction (.command code ops') = decodeTransaction (.command code ops))

/-- R106: the decoder answers the first row that matches: the presented words have the fixed bits of the decoded
instruction's row, and of no earlier row of the opcode table. So a fallback row never stands for an earlier row's words;
and a decoded instruction has no longer an operand than what was presented (R101). A frame or a request presented on its
own is the model's view of an inner format (log 1). -/
def Obligations.DecodeIsFirstMatch : Prop :=
  ∀ t : Transaction,
    (∃ row, opcodeTable[(decodeTransaction t).row]? = some row ∧ row.covers t = true) ∧
    (∀ k row, k < (decodeTransaction t).row → opcodeTable[k]? = some row → row.covers t = false) ∧
    (decodeTransaction t).canonical = true ∧ (decodeTransaction t).operandLength ≤ t.operandLength

/-! ### The step -/

/-- R7, R102, R242, R230: when a transaction is at the port, it has a move and its operand fits, the step takes it
off the port, decodes it and performs the decoded instruction. The pending list and the constructed flag are the
model's (log 4, log 8). -/
def Obligations.StepRunsDecodedInstruction : Prop :=
  ∀ (s : State) (t : Transaction) (rest : List Transaction), s.pending = t :: rest →
    (s.constructed = true ∨ ∃ id, decodeTransaction t = .reset id) →
    (decodeTransaction t).operandLength ≤ s.params.hostBufMax →
    step s = exec (decodeTransaction t) { s with pending := rest }

/-- R241, R242, R230: an idle block stays as it is; before the first RESET any other transaction is stuck; an operand
longer than HOST_BUF_MAX has no move. How the absence of a move is said is the model's choice (log 7, log 8, log 9). -/
def Obligations.StepWithoutMove : Prop :=
  (∀ s : State, s.pending = [] → step s = .next s) ∧
  (∀ (s : State) (t : Transaction) (rest : List Transaction), s.pending = t :: rest → s.constructed = false →
    (∀ id, decodeTransaction t ≠ .reset id) → step s = .fault .beforeFirstReset) ∧
  (∀ (s : State) (t : Transaction) (rest : List Transaction), s.pending = t :: rest → s.constructed = true →
    s.params.hostBufMax < (decodeTransaction t).operandLength → step s = .refused .operandTooLong)

/-- R102, R14, R9: every presented transaction completes, with exactly one result, the port free for the next one and
the parameters unchanged. The lists of pending transactions and of results are the model's (log 4). -/
def Obligations.EveryTransactionCompletes : Prop :=
  ∀ (s : State) (t : Transaction) (rest : List Transaction), s.pending = t :: rest → s.constructed = true →
    (decodeTransaction t).operandLength ≤ s.params.hostBufMax →
    ∃ u r, step s = .next u ∧ u.results = s.results ++ [r] ∧ u.pending = rest ∧
      u.params = s.params ∧ u.constructed = true

/-- R75, R102, R247: a sequence of transactions is performed one at a time to its end, with one result each, in order:
the k-th transaction is performed, alone, in the state that the first k left, and ends in the k-th result. The lists of
pending transactions and of results are the model's (log 4). -/
def Obligations.SequenceOfTransactionsCompletes : Prop :=
  ∀ (ts : List Transaction) (s : State), s.constructed = true → s.pending = ts →
    (∀ t ∈ ts, (decodeTransaction t).operandLength ≤ s.params.hostBufMax) →
    ∃ u rs, Host.Core.run Sys2Proof.core ts.length s = .next u ∧ u.pending = [] ∧
      u.results = s.results ++ rs ∧ rs.length = ts.length ∧ u.params = s.params ∧
      ∀ k t, ts[k]? = some t → ∃ v w r, rs[k]? = some r ∧
        Host.Core.run Sys2Proof.core k s = .next v ∧ v.pending = t :: ts.drop (k + 1) ∧
        exec (decodeTransaction t) { v with pending := ts.drop (k + 1) } = .next w ∧
        Host.Core.run Sys2Proof.core (k + 1) s = .next w ∧ w.results = v.results ++ [r]

/-! ### The Transport Codec -/

/-- R121: ENCODE_SF. -/
def Obligations.EncodeSfResult : Prop :=
  (∀ ops, decodeTransaction (.command 0x8 ops) = .encodeSf ops.bytes) ∧
  ∀ (p : Bytes) (s : State),
    (p.length ≤ 7 → exec (.encodeSf p) s = .next (s.after s.ecu (.bytes (BitVec.ofNat 8 p.length :: p)))) ∧
    (7 < p.length → exec (.encodeSf p) s = .next (s.after s.ecu (.contractError .payloadTooLarge)))

/-- R122: ENCODE_FF, with both settings of OVERSIZE_POLICY. -/
def Obligations.EncodeFfResult : Prop :=
  (∀ ops, decodeTransaction (.command 0x9 ops) = .encodeFf ops.bytes ops.totalLength) ∧
  ∀ (c : Bytes) (L : BitVec 16) (s : State),
    (4095 < L.toNat → exec (.encodeFf c L) s = .next (s.after s.ecu (.contractError .lengthOutOfRange))) ∧
    (L.toNat ≤ 4095 → c.length ≤ 6 → exec (.encodeFf c L) s = .next (s.after s.ecu
      (.bytes (BitVec.ofNat 8 (16 + L.toNat / 256) :: BitVec.ofNat 8 (L.toNat % 256) :: c)))) ∧
    (L.toNat ≤ 4095 → 6 < c.length → s.params.oversizePolicy = .contractError →
      exec (.encodeFf c L) s = .next (s.after s.ecu (.contractError .chunkTooLarge))) ∧
    (L.toNat ≤ 4095 → 6 < c.length → s.params.oversizePolicy = .truncate →
      exec (.encodeFf c L) s = .next (s.after s.ecu
        (.bytes (BitVec.ofNat 8 (16 + L.toNat / 256) :: BitVec.ofNat 8 (L.toNat % 256) :: c.take 6))))

/-- R123: ENCODE_CF, with both settings of OVERSIZE_POLICY; the sequence number wraps silently. -/
def Obligations.EncodeCfResult : Prop :=
  (∀ ops, decodeTransaction (.command 0xA ops) = .encodeCf ops.bytes ops.sequenceNumber) ∧
  ∀ (c : Bytes) (sn : BitVec 8) (s : State),
    (c.length ≤ 7 → exec (.encodeCf c sn) s = .next (s.after s.ecu
      (.bytes (BitVec.ofNat 8 (32 + sn.toNat % 16) :: c)))) ∧
    (7 < c.length → s.params.oversizePolicy = .contractError →
      exec (.encodeCf c sn) s = .next (s.after s.ecu (.contractError .chunkTooLarge))) ∧
    (7 < c.length → s.params.oversizePolicy = .truncate →
      exec (.encodeCf c sn) s = .next (s.after s.ecu (.bytes (BitVec.ofNat 8 (32 + sn.toNat % 16) :: c.take 7))))

/-- R124: DECODE, in the order of its checks. -/
def Obligations.DecodeResult : Prop :=
  (∀ ops, decodeTransaction (.command 0xB ops) = .decode ops.bytes) ∧
  (∀ (raw : Bytes) (s : State), 8 < raw.length → exec (.decode raw) s = .next (s.faulted .frameTooLong)) ∧
  (∀ s : State, exec (.decode []) s = .next (s.after s.ecu (.decodeError .emptyFrame))) ∧
  ∀ (b : Byte) (rest : Bytes) (s : State), rest.length ≤ 7 →
    (b.toNat / 16 = 0 → exec (.decode (b :: rest)) s = .next (s.after s.ecu
      (.frame (.sf (BitVec.ofNat 4 b.toNat) (rest.take (b.toNat % 16)))))) ∧
    (b.toNat / 16 = 1 → rest = [] → exec (.decode (b :: rest)) s = .next (s.faulted .shortFf)) ∧
    (∀ lo chunk, b.toNat / 16 = 1 → rest = lo :: chunk → exec (.decode (b :: rest)) s = .next (s.after s.ecu
      (.frame (.ff (BitVec.ofNat 12 (b.toNat % 16 * 256 + lo.toNat)) chunk)))) ∧
    (b.toNat / 16 = 2 → exec (.decode (b :: rest)) s = .next (s.after s.ecu
      (.frame (.cf (BitVec.ofNat 4 b.toNat) rest)))) ∧
    (3 ≤ b.toNat / 16 → exec (.decode (b :: rest)) s = .next (s.after s.ecu (.decodeError .unknownFrameKind)))

/-- R125: DECODE of a SingleFrame: the data is the bytes present up to SF_DL, any bytes after are ignored, and the
declared length is kept, also where SF_DL is 8 to 15. -/
def Obligations.DecodeSingleFrame : Prop :=
  ∀ (n : BitVec 4) (rest : Bytes) (s : State), rest.length ≤ 7 →
    exec (.decode (BitVec.ofNat 8 n.toNat :: rest)) s = .next (s.after s.ecu (.frame (.sf n (rest.take n.toNat)))) ∧
    (rest.take n.toNat).length ≤ 7 ∧
    (rest.length < n.toNat → rest.take n.toNat = rest)

/-- R126: DECODE of a FirstFrame: the 12-bit length, high bits first, the chunk as present and never compared with the
length, and the fault of a frame without a length low byte. -/
def Obligations.DecodeFirstFrame : Prop :=
  (∀ (hi : BitVec 4) (lo : Byte) (chunk : Bytes) (s : State), chunk.length ≤ 6 →
    exec (.decode (BitVec.ofNat 8 (16 + hi.toNat) :: lo :: chunk)) s = .next (s.after s.ecu
      (.frame (.ff (BitVec.ofNat 12 (hi.toNat * 256 + lo.toNat)) chunk)))) ∧
  (∀ (hi : BitVec 4) (s : State),
    exec (.decode [BitVec.ofNat 8 (16 + hi.toNat)]) s = .next (s.faulted .shortFf))

/-- R127: DECODE of a ConsecutiveFrame: the sequence number and every byte after byte 0. -/
def Obligations.DecodeConsecutiveFrame : Prop :=
  ∀ (sn : BitVec 4) (rest : Bytes) (s : State), rest.length ≤ 7 →
    exec (.decode (BitVec.ofNat 8 (32 + sn.toNat) :: rest)) s = .next (s.after s.ecu (.frame (.cf sn rest)))

/-- R128: DECODE of every other kind is an unknown kind, whatever the low nibble and the length, and no transaction
ever produces `Frame.FC`. -/
def Obligations.DecodeUnknownKind : Prop :=
  (∀ (b : Byte) (rest : Bytes) (s : State), rest.length ≤ 7 → 3 ≤ b.toNat / 16 →
    exec (.decode (b :: rest)) s = .next (s.after s.ecu (.decodeError .unknownFrameKind))) ∧
  (∀ (i : Instr) (s t : State), exec i s = .next t → t.results ≠ s.results ++ [.frame .fc])

/-- The six PCI rows on their own, which are DECODE of such a frame (the model's view of the inner format, log 1), from
R124 to R128: a frame of more than 8 bytes faults first, then the row gives its frame or its error. -/
def Obligations.PciRowsAnswer : Prop :=
  ∀ (rest : Bytes) (s : State),
    (7 < rest.length →
      (∀ n, exec (.pciSf n rest) s = .next (s.faulted .frameTooLong)) ∧
      (∀ hi, exec (.pciFf hi rest) s = .next (s.faulted .frameTooLong)) ∧
      (∀ sn, exec (.pciCf sn rest) s = .next (s.faulted .frameTooLong)) ∧
      (∀ low, exec (.pciFc low rest) s = .next (s.faulted .frameTooLong)) ∧
      (∀ low, exec (.pciReserved4To7 low rest) s = .next (s.faulted .frameTooLong)) ∧
      (∀ low, exec (.pciReserved8ToF low rest) s = .next (s.faulted .frameTooLong))) ∧
    (rest.length ≤ 7 →
      (∀ n, exec (.pciSf n rest) s = .next (s.after s.ecu (.frame (.sf n (rest.take n.toNat))))) ∧
      (∀ hi, rest = [] → exec (.pciFf hi rest) s = .next (s.faulted .shortFf)) ∧
      (∀ hi lo chunk, rest = lo :: chunk → exec (.pciFf hi rest) s = .next (s.after s.ecu
        (.frame (.ff (BitVec.ofNat 12 (hi.toNat * 256 + lo.toNat)) chunk)))) ∧
      (∀ sn, exec (.pciCf sn rest) s = .next (s.after s.ecu (.frame (.cf sn rest)))) ∧
      (∀ low, exec (.pciFc low rest) s = .next (s.after s.ecu (.decodeError .unknownFrameKind))) ∧
      (∀ low, exec (.pciReserved4To7 low rest) s = .next (s.after s.ecu (.decodeError .unknownFrameKind))) ∧
      (∀ low, exec (.pciReserved8ToF low rest) s = .next (s.after s.ecu (.decodeError .unknownFrameKind))))

/-- R85, R124 to R128: DECODE of a frame does exactly what the row of its PCI byte does (the row on its own is the
model's view of the inner format, log 1). -/
def Obligations.DecodeRunsPciRow : Prop :=
  ∀ (b : Byte) (rest : Bytes) (s : State),
    exec (.decode (b :: rest)) s = exec (decodeTransaction (.frame b rest)) s

/-- R129: if ENCODE_SF p gives BYTES b, DECODE b gives FRAME (SF |p| p), and it does for every p of at most 7 bytes. -/
def Obligations.SingleFrameRoundTrip : Prop :=
  ∀ (p : Bytes) (s u : State), p.length ≤ 7 →
    ∃ b, exec (.encodeSf p) s = .next (s.after s.ecu (.bytes b)) ∧
      exec (.decode b) u = .next (u.after u.ecu (.frame (.sf (BitVec.ofNat 4 p.length) p)))

/-- R130: the round trips of FirstFrames and ConsecutiveFrames. -/
def Obligations.SegmentRoundTrips : Prop :=
  (∀ (c : Bytes) (L : BitVec 16) (s u : State), c.length ≤ 6 → L.toNat ≤ 4095 →
    ∃ b, exec (.encodeFf c L) s = .next (s.after s.ecu (.bytes b)) ∧
      exec (.decode b) u = .next (u.after u.ecu (.frame (.ff (BitVec.ofNat 12 L.toNat) c)))) ∧
  (∀ (c : Bytes) (sn : BitVec 8) (s u : State), c.length ≤ 7 →
    ∃ b, exec (.encodeCf c sn) s = .next (s.after s.ecu (.bytes b)) ∧
      exec (.decode b) u = .next (u.after u.ecu (.frame (.cf (BitVec.ofNat 4 (sn.toNat % 16)) c))))

/-- R131: every frame DECODE returns keeps the capacity invariant, and every encoder output has at most 8 bytes. -/
def Obligations.CodecCapacity : Prop :=
  (∀ (i : Instr) (s t : State) (f : Frame), exec i s = .next t → t.results = s.results ++ [.frame f] →
    match f with
    | .sf _ data => data.length ≤ 7
    | .ff _ data => data.length ≤ 6
    | .cf _ data => data.length ≤ 7
    | .fc => False) ∧
  (∀ (s t : State) (b : Bytes),
    (∀ p, exec (.encodeSf p) s = .next t → t.results = s.results ++ [.bytes b] → b.length ≤ 8) ∧
    (∀ c L, exec (.encodeFf c L) s = .next t → t.results = s.results ++ [.bytes b] → b.length ≤ 8) ∧
    (∀ c sn, exec (.encodeCf c sn) s = .next t → t.results = s.results ++ [.bytes b] → b.length ≤ 8))

/-- R120: a codec transaction reads no component of S, so two identical ones give identical results whatever the
state; it writes none either, except that DECODE may set a fault bit. -/
def Obligations.CodecIsPure : Prop :=
  ∀ (i : Instr) (s u : State),
    ((∃ p, i = .encodeSf p) ∨ (∃ c L, i = .encodeFf c L) ∨ (∃ c sn, i = .encodeCf c sn) ∨ (∃ raw, i = .decode raw)) →
    s.params = u.params →
    ∃ r es eu, exec i s = .next (s.after es r) ∧ exec i u = .next (u.after eu r) ∧
      ((∀ c, r ≠ .fault c) → es = s.ecu ∧ eu = u.ecu) ∧
      (∀ c, r = .fault c → (∃ raw, i = .decode raw) ∧ s.after es r = s.faulted c ∧ u.after eu r = u.faulted c)

/-! ### The Service Dispatcher -/

/-- R155: HANDLE_FRAME of a TesterPresent request answers `[0x7E]` whatever the service payload, and writes nothing. -/
def Obligations.TesterPresentAnswers : Prop :=
  ∀ (n : BitVec 4) (rest sp : Bytes) (s : State), rest.length ≤ 7 → rest.take n.toNat = 0x3E :: sp →
    exec (.handleFrame (BitVec.ofNat 8 n.toNat :: rest)) s = .next (s.after s.ecu (.bytes [0x01, 0x7E]))

/-- R156: HANDLE_FRAME of a DiagnosticSessionControl request sets `session_active` and echoes the session type, 0x00
when it is absent; the bytes after it are ignored. -/
def Obligations.SessionControlAnswers : Prop :=
  ∀ (n : BitVec 4) (rest sp : Bytes) (s : State), rest.length ≤ 7 → rest.take n.toNat = 0x10 :: sp →
    (sp = [] → exec (.handleFrame (BitVec.ofNat 8 n.toNat :: rest)) s =
      .next (s.after { s.ecu with sessionActive := true } (.bytes [0x02, 0x50, 0x00]))) ∧
    (∀ st ignored, sp = st :: ignored → exec (.handleFrame (BitVec.ofNat 8 n.toNat :: rest)) s =
      .next (s.after { s.ecu with sessionActive := true } (.bytes [0x02, 0x50, st])))

/-- R157, R66: HANDLE_FRAME of a ReadDataByIdentifier request: too short, an unknown identifier, a stored value that
fits a SingleFrame, and one that does not. -/
def Obligations.ReadDidAnswers : Prop :=
  ∀ (n : BitVec 4) (rest sp : Bytes) (s : State), rest.length ≤ 7 → rest.take n.toNat = 0x22 :: sp →
    (sp.length < 2 → exec (.handleFrame (BitVec.ofNat 8 n.toNat :: rest)) s =
      .next (s.after s.ecu (.bytes [0x03, 0x7F, 0x00, 0x13]))) ∧
    (∀ (hi lo : Byte) (ignored : Bytes), sp = hi :: lo :: ignored →
      didRead s.ecu.did (BitVec.ofNat 16 (hi.toNat * 256 + lo.toNat)) = none →
      exec (.handleFrame (BitVec.ofNat 8 n.toNat :: rest)) s =
        .next (s.after s.ecu (.bytes [0x04, 0x62, hi, lo, 0x00]))) ∧
    (∀ (hi lo : Byte) (ignored v : Bytes), sp = hi :: lo :: ignored →
      didRead s.ecu.did (BitVec.ofNat 16 (hi.toNat * 256 + lo.toNat)) = some v → v.length ≤ 4 →
      exec (.handleFrame (BitVec.ofNat 8 n.toNat :: rest)) s =
        .next (s.after s.ecu (.bytes (BitVec.ofNat 8 (v.length + 3) :: 0x62 :: hi :: lo :: v)))) ∧
    (∀ (hi lo : Byte) (ignored v : Bytes), sp = hi :: lo :: ignored →
      didRead s.ecu.did (BitVec.ofNat 16 (hi.toNat * 256 + lo.toNat)) = some v → 4 < v.length →
      exec (.handleFrame (BitVec.ofNat 8 n.toNat :: rest)) s = .next (s.faulted .respOverflow))

/-- R159: HANDLE_FRAME of the count request; with at most 255 stored codes the count byte is their number. -/
def Obligations.DtcCountAnswers : Prop :=
  ∀ (n : BitVec 4) (rest ignored : Bytes) (s : State), rest.length ≤ 7 →
    rest.take n.toNat = 0x19 :: 0x01 :: ignored → ∃ count : Byte,
    exec (.handleFrame (BitVec.ofNat 8 n.toNat :: rest)) s =
      .next (s.after s.ecu (.bytes [0x05, 0x59, 0x01, 0x00, count, 0x00])) ∧
    (s.ecu.dtc.length ≤ 255 → count.toNat = s.ecu.dtc.length)

/-- R160, R67: the list response, each code in insertion order as three big-endian bytes and a zero status byte, and
HANDLE_FRAME of the list request with no code, one code, and two or more codes. -/
def Obligations.DtcListAnswers : Prop :=
  ∀ (n : BitVec 4) (rest ignored : Bytes) (s : State), rest.length ≤ 7 →
    rest.take n.toNat = 0x19 :: 0x02 :: ignored →
    dispatch s.ecu 0x19 (0x02 :: ignored) = (s.ecu, 0x59 :: 0x02 :: s.ecu.dtc.flatMap fun c =>
      [BitVec.ofNat 8 (c.toNat / 65536), BitVec.ofNat 8 (c.toNat / 256), BitVec.ofNat 8 c.toNat, 0x00]) ∧
    (s.ecu.dtc = [] → exec (.handleFrame (BitVec.ofNat 8 n.toNat :: rest)) s =
      .next (s.after s.ecu (.bytes [0x02, 0x59, 0x02]))) ∧
    (∀ c, s.ecu.dtc = [c] → exec (.handleFrame (BitVec.ofNat 8 n.toNat :: rest)) s =
      .next (s.after s.ecu (.bytes [0x06, 0x59, 0x02,
        BitVec.ofNat 8 (c.toNat / 65536), BitVec.ofNat 8 (c.toNat / 256), BitVec.ofNat 8 c.toNat, 0x00]))) ∧
    (2 ≤ s.ecu.dtc.length →
      exec (.handleFrame (BitVec.ofNat 8 n.toNat :: rest)) s = .next (s.faulted .respOverflow))

/-- R161, R162: HANDLE_FRAME of another subfunction of 0x19, or of none, and of any other SID gets NRC 0x12, and nothing
is written. -/
def Obligations.UnsupportedAnswers : Prop :=
  ∀ (n : BitVec 4) (rest sp : Bytes) (sid : Byte) (s : State), rest.length ≤ 7 → rest.take n.toNat = sid :: sp →
    ((sid = 0x19 ∧ sp.head? ≠ some 0x01 ∧ sp.head? ≠ some 0x02) ∨
      (sid ≠ 0x3E ∧ sid ≠ 0x10 ∧ sid ≠ 0x22 ∧ sid ≠ 0x19)) →
    exec (.handleFrame (BitVec.ofNat 8 n.toNat :: rest)) s = .next (s.after s.ecu (.bytes [0x03, 0x7F, 0x00, 0x12]))

/-- The seven UDS_REQ rows on their own, which are HANDLE_FRAME of a SingleFrame that carries the request (the model's
view of the inner format, log 1), from R155 to R162, R184 and R185: each row ends in the service's response, wrapped, and
the two that can answer more than 7 bytes fault then. That a row runs for a request of any length is the model's choice
(log 10), and so is the count byte of the count row modulo 256 in a state with more than 255 codes (log 16). -/
def Obligations.RequestRowsAnswer : Prop :=
  ∀ (sp : Bytes) (s : State),
    exec (.testerPresent sp) s = .next (s.after s.ecu (.bytes [0x01, 0x7E])) ∧
    exec (.diagnosticSessionControl sp) s =
      .next (s.after { s.ecu with sessionActive := true } (.bytes [0x02, 0x50, sp.headD 0x00])) ∧
    (sp.length < 2 →
      exec (.readDataByIdentifier sp) s = .next (s.after s.ecu (.bytes [0x03, 0x7F, 0x00, 0x13]))) ∧
    (∀ (hi lo : Byte) (ignored : Bytes), sp = hi :: lo :: ignored →
      ∃ v, v = (didRead s.ecu.did (BitVec.ofNat 16 (hi.toNat * 256 + lo.toNat))).getD [0x00] ∧
      exec (.readDataByIdentifier sp) s = .next (if v.length ≤ 4 then
        s.after s.ecu (.bytes (BitVec.ofNat 8 (v.length + 3) :: 0x62 :: hi :: lo :: v)) else s.faulted .respOverflow)) ∧
    exec (.readDtcInformation01 sp) s =
      .next (s.after s.ecu (.bytes [0x05, 0x59, 0x01, 0x00, BitVec.ofNat 8 s.ecu.dtc.length, 0x00])) ∧
    exec (.readDtcInformation02 sp) s = .next (if s.ecu.dtc.length ≤ 1 then
      s.after s.ecu (.bytes (BitVec.ofNat 8 (2 + 4 * s.ecu.dtc.length) :: 0x59 :: 0x02 :: s.ecu.dtc.flatMap fun c =>
        [BitVec.ofNat 8 (c.toNat / 65536), BitVec.ofNat 8 (c.toNat / 256), BitVec.ofNat 8 c.toNat, 0x00]))
      else s.faulted .respOverflow) ∧
    exec (.rdtciOther sp) s = .next (s.after s.ecu (.bytes [0x03, 0x7F, 0x00, 0x12])) ∧
    (∀ sid, exec (.sidUnsupported sid sp) s = .next (s.after s.ecu (.bytes [0x03, 0x7F, 0x00, 0x12])))

/-- R153, R154, R163: a response of the router is positive, with byte 0 the SID plus 0x40, or one of exactly two
negative responses. -/
def Obligations.RouterResponseShapes : Prop :=
  ∀ (e : Ecu) (sid : Byte) (sp : Bytes),
    (dispatch e sid sp).2 = [0x7F, 0x00, 0x12] ∨ (dispatch e sid sp).2 = [0x7F, 0x00, 0x13] ∨
    ((dispatch e sid sp).2.head? = some (sid + 0x40) ∧ (sid = 0x3E ∨ sid = 0x10 ∨ sid = 0x22 ∨ sid = 0x19))

/-- R164: the router writes only `session_active`, only for SID 0x10, and its response does not depend on
`session_active`. -/
def Obligations.RouterFootprint : Prop :=
  ∀ (e : Ecu) (sid : Byte) (sp : Bytes),
    (dispatch e sid sp).1 = (if sid = 0x10 then { e with sessionActive := true } else e) ∧
    ∀ e' : Ecu, (sid = 0x22 → e'.did = e.did) → (sid = 0x19 → e'.dtc = e.dtc) →
      (dispatch e' sid sp).2 = (dispatch e sid sp).2

/-- R165: the length of every response of the router. -/
def Obligations.RouterResponseLengths : Prop :=
  ∀ (e : Ecu) (sp : Bytes),
    (dispatch e 0x3E sp).2.length = 1 ∧
    (dispatch e 0x10 sp).2.length = 2 ∧
    (sp.length < 2 → (dispatch e 0x22 sp).2.length = 3) ∧
    (∀ hi lo rest, sp = hi :: lo :: rest → didRead e.did (BitVec.ofNat 16 (hi.toNat * 256 + lo.toNat)) = none →
      (dispatch e 0x22 sp).2.length = 4) ∧
    (∀ hi lo rest v, sp = hi :: lo :: rest →
      didRead e.did (BitVec.ofNat 16 (hi.toNat * 256 + lo.toNat)) = some v →
      (dispatch e 0x22 sp).2.length = 3 + v.length) ∧
    (sp.head? = some 0x01 → (dispatch e 0x19 sp).2.length = 5) ∧
    (sp.head? = some 0x02 → (dispatch e 0x19 sp).2.length = 2 + 4 * e.dtc.length) ∧
    (sp.head? ≠ some 0x01 → sp.head? ≠ some 0x02 → (dispatch e 0x19 sp).2.length = 3) ∧
    (∀ sid : Byte, sid ≠ 0x3E → sid ≠ 0x10 → sid ≠ 0x22 → sid ≠ 0x19 → (dispatch e sid sp).2.length = 3)

/-! ### The ECU Session -/

/-- R184, R150, R95, R125: HANDLE_FRAME of a SingleFrame with a payload does exactly what the row of that request does:
the CRC stage passes the payload unchanged, padding after it is ignored, and a short frame is routed by the bytes
present (the row on its own is the model's view of the inner format, log 1). -/
def Obligations.HandleFrameRunsRoutedRow : Prop :=
  ∀ (n : BitVec 4) (rest : Bytes) (sid : Byte) (sp : Bytes) (s : State), rest.length ≤ 7 →
    rest.take n.toNat = sid :: sp →
    exec (.handleFrame (BitVec.ofNat 8 n.toNat :: rest)) s = exec (decodeTransaction (.request sid sp)) s

/-- R181, R182, R183, with both settings of WRAP_TRANSPORT_ERRORS: a decode failure gives NRC 0x12, a FirstFrame or
ConsecutiveFrame NRC 0x31, an empty SingleFrame payload the wrapped NRC 0x12; S is unchanged. -/
def Obligations.TransportErrorAnswers : Prop :=
  ∀ (s : State) (te : Byte → Bytes),
    (te = fun nrc => if s.params.wrapTransportErrors then [0x03, 0x7F, 0x00, nrc] else [0x7F, 0x00, nrc]) →
    exec (.handleFrame []) s = .next (s.after s.ecu (.bytes (te 0x12))) ∧
    ∀ (b : Byte) (rest : Bytes), rest.length ≤ 7 →
      (3 ≤ b.toNat / 16 → exec (.handleFrame (b :: rest)) s = .next (s.after s.ecu (.bytes (te 0x12)))) ∧
      (b.toNat / 16 = 2 → exec (.handleFrame (b :: rest)) s = .next (s.after s.ecu (.bytes (te 0x31)))) ∧
      (b.toNat / 16 = 1 → rest ≠ [] → exec (.handleFrame (b :: rest)) s = .next (s.after s.ecu (.bytes (te 0x31)))) ∧
      (b.toNat = 0 ∨ (b.toNat / 16 = 0 ∧ rest = []) →
        exec (.handleFrame (b :: rest)) s = .next (s.after s.ecu (.bytes [0x03, 0x7F, 0x00, 0x12])))

/-- R185: a response longer than 7 bytes faults and nothing is committed; this happens exactly for a stored value of
more than 4 bytes and for the list of two or more codes. -/
def Obligations.ResponseOverflowExactly : Prop :=
  ∀ (n : BitVec 4) (rest : Bytes) (sid : Byte) (sp : Bytes) (s : State), rest.length ≤ 7 →
    rest.take n.toNat = sid :: sp →
    (exec (.handleFrame (BitVec.ofNat 8 n.toNat :: rest)) s = .next (s.faulted .respOverflow) ↔
      (sid = 0x22 ∧ ∃ hi lo more v, sp = hi :: lo :: more ∧
        didRead s.ecu.did (BitVec.ofNat 16 (hi.toNat * 256 + lo.toNat)) = some v ∧ 4 < v.length) ∨
      (sid = 0x19 ∧ sp.head? = some 0x02 ∧ 2 ≤ s.ecu.dtc.length))

/-- R186: HANDLE_FRAME of at most 8 bytes answers a well-formed byte string, but for its two fault cases: a 1-byte
FirstFrame (R180), and a SingleFrame whose response has more than 7 bytes (R185). -/
def Obligations.HandleFrameTotality : Prop :=
  ∀ (raw : Bytes) (s : State), raw.length ≤ 8 →
    (∃ e r, r.length ≤ 7 ∧
      exec (.handleFrame raw) s = .next (s.after e (.bytes (BitVec.ofNat 8 r.length :: r)))) ∨
    (s.params.wrapTransportErrors = false ∧ ∃ nrc,
      exec (.handleFrame raw) s = .next (s.after s.ecu (.bytes [0x7F, 0x00, nrc]))) ∨
    (∃ b, raw = [b] ∧ b.toNat / 16 = 1 ∧ exec (.handleFrame raw) s = .next (s.faulted .shortFf)) ∨
    (∃ n rest sid sp, raw = BitVec.ofNat 8 (BitVec.toNat (w := 4) n) :: rest ∧ rest.take n.toNat = sid :: sp ∧
      7 < (dispatch s.ecu sid sp).2.length ∧ exec (.handleFrame raw) s = .next (s.faulted .respOverflow))

/-- R187, R188, R61: SET_DID stores the whole value under its key, leaves every other key and the rest of S, and
faults on a value longer than DID_VAL_MAX. -/
def Obligations.SetDidResult : Prop :=
  (∀ ops, decodeTransaction (.command 0x2 ops) = .setDid ops.did ops.bytes) ∧
  ∀ (id : Did) (v : Bytes) (s : State),
    (v.length ≤ s.params.didValMax → ∃ m,
      exec (.setDid id v) s = .next (s.after { s.ecu with did := m } .done) ∧
      didRead m id = some v ∧ ∀ key, key ≠ id → didRead m key = didRead s.ecu.did key) ∧
    (s.params.didValMax < v.length → exec (.setDid id v) s = .next (s.faulted .didValueTooLong))

/-- R72, R188: the transactions that are idempotent. A second SET_DID of a key leaves S as if the first had not been
made, so with the same value it changes nothing; nor does a second CLEAR_DTC or DiagnosticSessionControl. The rows on
their own are the model's view of an inner format (log 1). -/
def Obligations.IdempotentTransactions : Prop :=
  (∀ (id : Did) (v w : Bytes) (s t : State), exec (.setDid id v) s = .next t →
    v.length ≤ s.params.didValMax → w.length ≤ s.params.didValMax →
    ∃ e, exec (.setDid id w) t = .next (t.after e .done) ∧ exec (.setDid id w) s = .next (s.after e .done)) ∧
  (∀ s t : State, exec .clearDtc s = .next t → exec .clearDtc t = .next (t.after t.ecu .done)) ∧
  (∀ (sp : Bytes) (s t : State), exec (.diagnosticSessionControl sp) s = .next t →
    ∃ r, exec (.diagnosticSessionControl sp) t = .next (t.after t.ecu r))

/-- R189, R190, R62: ADD_DTC appends, and faults on a full store. -/
def Obligations.AddDtcResult : Prop :=
  (∀ ops, decodeTransaction (.command 0x3 ops) = .addDtc ops.dtc) ∧
  ∀ (c : Dtc) (s : State),
    (s.ecu.dtc.length ≠ s.params.dtcCap →
      exec (.addDtc c) s = .next (s.after { s.ecu with dtc := s.ecu.dtc ++ [c] } .done)) ∧
    (s.ecu.dtc.length = s.params.dtcCap → exec (.addDtc c) s = .next (s.faulted .dtcFull))

/-- R191, R62: CLEAR_DTC empties the store, and the reads after it report no code. -/
def Obligations.ClearDtcResult : Prop :=
  (∀ ops, decodeTransaction (.command 0x4 ops) = .clearDtc) ∧
  ∀ s : State, ∃ t, exec .clearDtc s = .next t ∧ t = s.after { s.ecu with dtc := [] } .done ∧
    exec (.handleFrame [0x02, 0x19, 0x01]) t = .next (t.after t.ecu (.bytes [0x05, 0x59, 0x01, 0x00, 0x00, 0x00])) ∧
    exec (.handleFrame [0x02, 0x19, 0x02]) t = .next (t.after t.ecu (.bytes [0x02, 0x59, 0x02]))

/-- R193, R36: READ_STATUS answers SESSION_ACTIVE in bit 0, the fault latch in bits 1 to 6, 0 in bit 7 and the number
of codes in bits 15 to 8, and writes nothing. -/
def Obligations.ReadStatusResult : Prop :=
  (∀ ops, decodeTransaction (.command 0x5 ops) = .readStatus) ∧
  ∀ s : State, ∃ w : BitVec 16, exec .readStatus s = .next (s.after s.ecu (.status w)) ∧
    w.getLsbD 0 = s.ecu.sessionActive ∧ w.getLsbD 7 = false ∧
    (∀ k, k < 6 → w.getLsbD (k + 1) = s.ecu.fault.getLsbD k) ∧
    (s.ecu.dtc.length ≤ 255 →
      w.toNat = s.ecu.sessionActive.toNat + 2 * s.ecu.fault.toNat + 256 * s.ecu.dtc.length)

/-- R194, R103: a reserved command code raises F_BAD_CMD whatever its operands, and changes nothing else. -/
def Obligations.ReservedCommandsFault : Prop :=
  (∀ (code : BitVec 4) (ops : Operands) (s : State),
    (code.toNat = 6 ∨ code.toNat = 7 ∨ 12 ≤ code.toNat) →
    exec (decodeTransaction (.command code ops)) s = .next (s.faulted .badCmd)) ∧
  (∀ low ops (s : State), exec (.reservedCmd6To7 low ops) s = .next (s.faulted .badCmd)) ∧
  (∀ low ops (s : State), exec (.reservedCmdCToF low ops) s = .next (s.faulted .badCmd))

/-- R195, R42: RESET, from any state and also before the first RESET, puts every component of S at its reset value; a
READ_STATUS after it reads 0. The constructed flag (log 8) and the host's two lists (log 4) are the model's. -/
def Obligations.ResetResult : Prop :=
  (∀ ops, decodeTransaction (.command 0x0 ops) = .reset ops.ecuId) ∧
  ∀ (id : EcuId) (s : State), ∃ t, exec (.reset id) s = .next t ∧
    t.ecu.sessionActive = false ∧ (∀ key, didRead t.ecu.did key = none) ∧ t.ecu.dtc = [] ∧ t.ecu.fault = 0 ∧
    t.ecu.ecuId = id ∧ t.constructed = true ∧ t.params = s.params ∧ t.pending = s.pending ∧
    t.results = s.results ++ [.done] ∧ exec .readStatus t = .next (t.after t.ecu (.status 0x0000))

/-- R42, R240, R241: the machine right after RESET. The pending list and the constructed flag are the model's (log 4,
log 8). -/
def Obligations.ResetState : Prop :=
  State.reset.ecu.sessionActive = false ∧ (∀ key, didRead State.reset.ecu.did key = none) ∧
  State.reset.ecu.dtc = [] ∧ State.reset.ecu.fault = 0 ∧ State.reset.constructed = true ∧
  State.reset.pending = [] ∧ statusWord State.reset.ecu = 0x0000

/-! ### The whole machine -/

/-- R215, R71: a transaction that ends in FAULT(c) has set STATUS bit c and done nothing else; the block accepts any
transaction after it, and the bit stays set until RESET. -/
def Obligations.FaultChangesOnlyItsBit : Prop :=
  ∀ (i : Instr) (s t : State) (c : FaultCode), exec i s = .next t → t.results = s.results ++ [.fault c] →
    t = s.faulted c ∧ latched c t.ecu.fault = true ∧
    ∀ j : Instr, ∃ u, exec j t = .next u ∧ ((∀ id, j ≠ .reset id) → latched c u.ecu.fault = true)

/-- R211, R212, R213: a contract error, a decode error and a negative response change no state and set no STATUS
bit. -/
def Obligations.ErrorsChangeNothing : Prop :=
  ∀ (i : Instr) (s t : State) (r : Result), exec i s = .next t → t.results = s.results ++ [r] →
    ((∃ c, r = .contractError c) ∨ (∃ c, r = .decodeError c) ∨ (∃ nrc, r = .bytes [0x7F, 0x00, nrc]) ∨
      (∃ nrc, r = .bytes [0x03, 0x7F, 0x00, nrc])) →
    t = s.after s.ecu r

/-- R104, R213: which transactions end in which kind of error: DECODE_ERROR only DECODE, CONTRACT_ERROR only the
encoders. The rows on their own are the model's view of an inner format (log 1). -/
def Obligations.ErrorKindsByTransaction : Prop :=
  ∀ (i : Instr) (s t : State), exec i s = .next t →
    (∀ c, t.results = s.results ++ [.contractError c] →
      (∃ p, i = .encodeSf p) ∨ (∃ b L, i = .encodeFf b L) ∨ (∃ b sn, i = .encodeCf b sn)) ∧
    (∀ c, t.results = s.results ++ [.decodeError c] →
      (∃ raw, i = .decode raw) ∨ (∃ low rest, i = .pciFc low rest) ∨ (∃ low rest, i = .pciReserved4To7 low rest) ∨
      (∃ low rest, i = .pciReserved8ToF low rest))

/-- R216: when a host transaction ends in which fault, cause by cause and no otherwise. -/
def Obligations.FaultCauses : Prop :=
  ∀ (code : BitVec 4) (ops : Operands) (s t : State) (c : FaultCode),
    exec (decodeTransaction (.command code ops)) s = .next t →
    (t.results = s.results ++ [.fault c] ↔
      match c with
      | .frameTooLong => (code = 0x1 ∨ code = 0xB) ∧ 8 < ops.bytes.length
      | .shortFf => (code = 0x1 ∨ code = 0xB) ∧ ∃ b, ops.bytes = [b] ∧ b.toNat / 16 = 1
      | .respOverflow => code = 0x1 ∧ ∃ n rest sid sp, ops.bytes = BitVec.ofNat 8 (BitVec.toNat (w := 4) n) :: rest ∧
          rest.length ≤ 7 ∧ rest.take n.toNat = sid :: sp ∧ 7 < (dispatch s.ecu sid sp).2.length
      | .didValueTooLong => code = 0x2 ∧ s.params.didValMax < ops.bytes.length
      | .dtcFull => code = 0x3 ∧ s.ecu.dtc.length = s.params.dtcCap
      | .badCmd => code = 0x6 ∨ code = 0x7 ∨ 12 ≤ code.toNat)

/-- R33, R37, R195: only RESET clears `session_active` or a fault bit, and only DiagnosticSessionControl, which may
come in a HANDLE_FRAME, sets `session_active`. The rows on their own are the model's view of an inner format (log 1). -/
def Obligations.OnlyResetClears : Prop :=
  ∀ (i : Instr) (s t : State), exec i s = .next t →
    ((∀ id, i ≠ .reset id) →
      (s.ecu.sessionActive = true → t.ecu.sessionActive = true) ∧
      (∀ k, s.ecu.fault.getLsbD k = true → t.ecu.fault.getLsbD k = true)) ∧
    (s.ecu.sessionActive = false → t.ecu.sessionActive = true →
      (∃ sp, i = .diagnosticSessionControl sp) ∨
      ∃ raw n sp, i = .handleFrame raw ∧ codecDecode raw = .frame (.sf n (0x10 :: sp)))

/-- R34, R35: only SET_DID and RESET write the data-identifier store, only ADD_DTC, CLEAR_DTC and RESET the fault-code
store. -/
def Obligations.StoreWriters : Prop :=
  ∀ (i : Instr) (s t : State), exec i s = .next t →
    (t.ecu.did ≠ s.ecu.did → (∃ id v, i = .setDid id v) ∨ ∃ id, i = .reset id) ∧
    (t.ecu.dtc ≠ s.ecu.dtc → (∃ c, i = .addDtc c) ∨ i = .clearDtc ∨ ∃ id, i = .reset id) ∧
    (t.ecu.ecuId ≠ s.ecu.ecuId → ∃ id, i = .reset id)

/-- R72: READ_STATUS, the codec transactions, the PCI rows and the reading services never change `session_active`,
`did` or `dtc`; only a fault bit may change, and for READ_STATUS and the encoders not even that. The rows on their
own are the model's view of an inner format (log 1). -/
def Obligations.ReadOnlyTransactions : Prop :=
  ∀ (i : Instr) (s t : State), exec i s = .next t →
    (i = .readStatus ∨ (∃ p, i = .encodeSf p) ∨ (∃ c L, i = .encodeFf c L) ∨ (∃ c sn, i = .encodeCf c sn) →
      t.ecu = s.ecu) ∧
    ((∃ raw, i = .decode raw) ∨ (∃ b rest, i = decodeTransaction (.frame b rest)) ∨
      (∃ sid sp, sid ≠ 0x10 ∧ i = decodeTransaction (.request sid sp)) ∨
      (∃ n rest sid sp, rest.length ≤ 7 ∧ rest.take (BitVec.toNat (w := 4) n) = sid :: sp ∧ sid ≠ 0x10 ∧
        i = .handleFrame (BitVec.ofNat 8 n.toNat :: rest)) →
      t.ecu = { s.ecu with fault := t.ecu.fault })

/-- R192: no configuration transaction writes `session_active` or touches the other store, and none answers with
bytes. -/
def Obligations.ConfigurationTransactionsFrame : Prop :=
  ∀ (i : Instr) (s t : State), exec i s = .next t →
    ((∃ id v, i = .setDid id v) → t.ecu.sessionActive = s.ecu.sessionActive ∧ t.ecu.dtc = s.ecu.dtc) ∧
    ((∃ c, i = .addDtc c) ∨ i = .clearDtc →
      t.ecu.sessionActive = s.ecu.sessionActive ∧ t.ecu.did = s.ecu.did) ∧
    ((∃ id v, i = .setDid id v) ∨ (∃ c, i = .addDtc c) ∨ i = .clearDtc →
      ∀ b, t.results ≠ s.results ++ [.bytes b])

/-- R244, R75: the effect of a transaction is visible to the very next one. -/
def Obligations.WritesAreVisibleNext : Prop :=
  (∀ (hi lo : Byte) (v : Bytes) (s : State), v.length ≤ 4 → v.length ≤ s.params.didValMax → ∃ t,
    exec (.setDid (BitVec.ofNat 16 (hi.toNat * 256 + lo.toNat)) v) s = .next t ∧
    exec (.handleFrame [0x03, 0x22, hi, lo]) t =
      .next (t.after t.ecu (.bytes (BitVec.ofNat 8 (v.length + 3) :: 0x62 :: hi :: lo :: v)))) ∧
  (∀ (c : Dtc) (s : State), s.ecu.dtc.length < s.params.dtcCap → s.params.dtcCap ≤ 255 → ∃ t,
    exec (.addDtc c) s = .next t ∧
    exec (.handleFrame [0x02, 0x19, 0x01]) t = .next (t.after t.ecu
      (.bytes [0x05, 0x59, 0x01, 0x00, BitVec.ofNat 8 (s.ecu.dtc.length + 1), 0x00])))

/-- R33, R74, R224: no transaction but READ_STATUS can tell whether the session is active: its result is the same. -/
def Obligations.SessionGatesNothing : Prop :=
  ∀ (i : Instr) (s t : State) (b : Bool) (r : Result), i ≠ .readStatus →
    exec i s = .next t → t.results = s.results ++ [r] →
    ∃ u, exec i { s with ecu := { s.ecu with sessionActive := b } } = .next u ∧ u.results = s.results ++ [r] ∧
      u.ecu.did = t.ecu.did ∧ u.ecu.dtc = t.ecu.dtc ∧ u.ecu.fault = t.ecu.fault

/-- R41: `ecu_id` is set by RESET from its operand, and two blocks that differ only in it behave the same under every
transaction and still differ in nothing else after it. -/
def Obligations.EcuIdIsUnobserved : Prop :=
  ∀ (i : Instr) (s t : State) (id : EcuId), exec i s = .next t →
    (∀ x, i = .reset x → t.ecu.ecuId = x) ∧ ((∀ x, i ≠ .reset x) → t.ecu.ecuId = s.ecu.ecuId) ∧
    ∃ id', exec i { s with ecu := { s.ecu with ecuId := id } } = .next { t with ecu := { t.ecu with ecuId := id' } }

/-- R34, R35, R9: the invariant holds right after RESET. The values of the open parameters at reset are the model's
(log 2), and so is the order of the keys (log 13). -/
def Obligations.InvariantAtReset : Prop := State.reset.Inv

/-- R34, R35, R9: every step keeps the invariant: parameters in range, unique keys in canonical form, values and code
count within their capacities. The order of the keys is the model's canonical form (log 13). -/
def Obligations.StepKeepsInvariant : Prop :=
  ∀ s t : State, s.Inv → step s = .next t → t.Inv

end
end

