-- ==== Sys2Proof/Laws/Bits.lean ====
section
/-! SUPPORT. The bit fields said as numbers: nibbles, and the assembled fields of R65 to R67 and R97. -/

namespace Sys2Proof

theorem highNibble_toNat (b : Byte) : (highNibble b).toNat = b.toNat / 16 := by
  have := b.isLt
  simp [highNibble, BitVec.extractLsb'_toNat, Nat.shiftRight_eq_div_pow]
  omega

theorem lowNibble_toNat (b : Byte) : (lowNibble b).toNat = b.toNat % 16 := by
  simp [lowNibble, BitVec.extractLsb'_toNat]

theorem lowNibble_eq_ofNat (b : Byte) : lowNibble b = BitVec.ofNat 4 b.toNat := by
  apply BitVec.eq_of_toNat_eq
  simp [lowNibble_toNat]

/-- The kind nibble, as R85 reads it, and the masks of the opcode table's PCI rows agree. -/
theorem highNibble_eq_iff_mask (b : Byte) :
    (highNibble b = 0x0 ↔ b &&& 0xF0 = 0x00) ∧ (highNibble b = 0x1 ↔ b &&& 0xF0 = 0x10) ∧
    (highNibble b = 0x2 ↔ b &&& 0xF0 = 0x20) ∧ (highNibble b = 0x3 ↔ b &&& 0xF0 = 0x30) := by
  revert b; decide

theorem highNibble_eq_iff (b : Byte) (n : BitVec 4) : highNibble b = n ↔ b.toNat / 16 = n.toNat := by
  rw [← BitVec.toNat_inj, highNibble_toNat]

namespace Machine

/-- A field below bit `k` and one above it add up. -/
theorem shiftLeft_or_of_lt (a b k : Nat) (h : b < 2 ^ k) : (a <<< k) ||| b = a * 2 ^ k + b := by
  rw [Nat.shiftLeft_eq, Nat.mul_comm, ← Nat.two_pow_add_eq_or_of_lt h]

theorem ffDl_eq_ofNat (hi : BitVec 4) (lo : Byte) : ffDl hi lo = BitVec.ofNat 12 (hi.toNat * 256 + lo.toNat) := by
  apply BitVec.eq_of_toNat_eq
  have h1 := hi.isLt
  have h2 := lo.isLt
  simp only [ffDl, BitVec.toNat_or, BitVec.toNat_shiftLeft, BitVec.toNat_setWidth, BitVec.toNat_ofNat]
  rw [Nat.mod_eq_of_lt (by omega : hi.toNat < 2 ^ 12), Nat.mod_eq_of_lt (by omega : lo.toNat < 2 ^ 12),
    Nat.mod_eq_of_lt (by rw [Nat.shiftLeft_eq]; omega), shiftLeft_or_of_lt _ _ _ h2]
  omega

theorem didOf_eq_ofNat (hi lo : Byte) : didOf hi lo = BitVec.ofNat 16 (hi.toNat * 256 + lo.toNat) := by
  apply BitVec.eq_of_toNat_eq
  have h1 := hi.isLt
  have h2 := lo.isLt
  simp only [didOf, BitVec.toNat_or, BitVec.toNat_shiftLeft, BitVec.toNat_setWidth, BitVec.toNat_ofNat]
  rw [Nat.mod_eq_of_lt (by omega : hi.toNat < 2 ^ 16), Nat.mod_eq_of_lt (by omega : lo.toNat < 2 ^ 16),
    Nat.mod_eq_of_lt (by rw [Nat.shiftLeft_eq]; omega), shiftLeft_or_of_lt _ _ _ h2]
  omega

theorem dtcBytes_eq (c : Dtc) :
    dtcBytes c = [BitVec.ofNat 8 (c.toNat / 65536), BitVec.ofNat 8 (c.toNat / 256), BitVec.ofNat 8 c.toNat] := by
  simp only [dtcBytes, List.cons.injEq, and_true]
  refine ⟨?_, ?_, ?_⟩ <;> apply BitVec.eq_of_toNat_eq <;>
    simp [BitVec.extractLsb'_toNat, Nat.shiftRight_eq_div_pow]

theorem sfBytes_eq (p : Bytes) : sfBytes p = BitVec.ofNat 8 p.length :: p := by
  simp [sfBytes]

theorem ffBytes_eq (L : BitVec 16) (c : Bytes) (h : L.toNat ≤ 4095) :
    ffBytes L c = BitVec.ofNat 8 (16 + L.toNat / 256) :: BitVec.ofNat 8 (L.toNat % 256) :: c := by
  have h0 : (0x10#8 ||| (L >>> 8).setWidth 8) = BitVec.ofNat 8 (16 + L.toNat / 256) := by
    apply BitVec.eq_of_toNat_eq
    simp only [BitVec.toNat_or, BitVec.toNat_ushiftRight, BitVec.toNat_setWidth, BitVec.toNat_ofNat,
      Nat.shiftRight_eq_div_pow]
    rw [Nat.mod_eq_of_lt (by omega : L.toNat / 2 ^ 8 < 2 ^ 8)]
    have := shiftLeft_or_of_lt 1 (L.toNat / 2 ^ 8) 4 (by omega)
    simp at this ⊢
    omega
  have h1 : (L &&& 0xFF).setWidth 8 = BitVec.ofNat 8 (L.toNat % 256) := by
    apply BitVec.eq_of_toNat_eq
    have h255 : (0xFF#16).toNat = 2 ^ 8 - 1 := rfl
    rw [BitVec.toNat_setWidth, BitVec.toNat_and, BitVec.toNat_ofNat]
    show (L.toNat &&& (0xFF#16).toNat) % _ = _
    rw [h255, Nat.and_two_pow_sub_one_eq_mod]
  show (0x10#8 ||| (L >>> 8).setWidth 8) :: (L &&& 0xFF).setWidth 8 :: c = _
  rw [h0, h1]

theorem cfBytes_eq (sn : BitVec 8) (c : Bytes) : cfBytes sn c = BitVec.ofNat 8 (32 + sn.toNat % 16) :: c := by
  have h : (0x20#8 ||| (sn &&& 0xF)) = BitVec.ofNat 8 (32 + sn.toNat % 16) := by
    revert sn; decide
  show (0x20#8 ||| (sn &&& 0xF)) :: c = _
  rw [h]

end Machine

end Sys2Proof
end

