-- ==== Sys2Proof/Laws/State.lean ====
section
/-! SUPPORT. What each update of the state does to each field, true by unfolding the update once. -/

namespace Sys2Proof.Machine

section Present

variable (r : Result) (s : State)

@[simp] theorem present_params : (present r s).params = s.params := rfl
@[simp] theorem present_constructed : (present r s).constructed = s.constructed := rfl
@[simp] theorem present_ecu : (present r s).ecu = s.ecu := rfl
@[simp] theorem present_pending : (present r s).pending = s.pending := rfl
@[simp] theorem present_results : (present r s).results = s.results ++ [r] := rfl

end Present

section SetEcu

variable (e : Ecu) (s : State)

@[simp] theorem setEcu_params : (setEcu e s).params = s.params := rfl
@[simp] theorem setEcu_constructed : (setEcu e s).constructed = s.constructed := rfl
@[simp] theorem setEcu_ecu : (setEcu e s).ecu = e := rfl
@[simp] theorem setEcu_pending : (setEcu e s).pending = s.pending := rfl
@[simp] theorem setEcu_results : (setEcu e s).results = s.results := rfl

end SetEcu

section LatchFault

variable (c : FaultCode) (e : Ecu)

@[simp] theorem latchFault_sessionActive : (latchFault c e).sessionActive = e.sessionActive := rfl
@[simp] theorem latchFault_did : (latchFault c e).did = e.did := rfl
@[simp] theorem latchFault_dtc : (latchFault c e).dtc = e.dtc := rfl
@[simp] theorem latchFault_fault : (latchFault c e).fault = latch c e.fault := rfl
@[simp] theorem latchFault_ecuId : (latchFault c e).ecuId = e.ecuId := rfl

end LatchFault

section RaiseFault

variable (c : FaultCode) (s : State)

@[simp] theorem raiseFault_params : (raiseFault c s).params = s.params := rfl
@[simp] theorem raiseFault_constructed : (raiseFault c s).constructed = s.constructed := rfl
@[simp] theorem raiseFault_ecu : (raiseFault c s).ecu = latchFault c s.ecu := rfl
@[simp] theorem raiseFault_pending : (raiseFault c s).pending = s.pending := rfl
@[simp] theorem raiseFault_results : (raiseFault c s).results = s.results ++ [.fault c] := rfl

end RaiseFault

section After

variable (e : Ecu) (r : Result) (s : State)

@[simp] theorem after_params : (s.after e r).params = s.params := rfl
@[simp] theorem after_constructed : (s.after e r).constructed = s.constructed := rfl
@[simp] theorem after_ecu : (s.after e r).ecu = e := rfl
@[simp] theorem after_pending : (s.after e r).pending = s.pending := rfl
@[simp] theorem after_results : (s.after e r).results = s.results ++ [r] := rfl

end After

section Initial

variable (id : EcuId)

@[simp] theorem initial_sessionActive : (Ecu.initial id).sessionActive = false := rfl
@[simp] theorem initial_did : (Ecu.initial id).did = [] := rfl
@[simp] theorem initial_dtc : (Ecu.initial id).dtc = [] := rfl
@[simp] theorem initial_fault : (Ecu.initial id).fault = 0 := rfl
@[simp] theorem initial_ecuId : (Ecu.initial id).ecuId = id := rfl

end Initial

/-- Presenting a result is ending the transaction with S as it is. -/
theorem present_eq_after (r : Result) (s : State) : present r s = s.after s.ecu r := rfl

/-- Committing a record and presenting a result is ending the transaction with that record. -/
theorem present_setEcu_eq_after (e : Ecu) (r : Result) (s : State) : present r (setEcu e s) = s.after e r := rfl

/-- The machine's `raise Fault` is the one of R215. -/
theorem raiseFault_eq_faulted (c : FaultCode) (s : State) : raiseFault c s = s.faulted c := rfl

/-- A faulted state is one that ends in FAULT(c). -/
theorem faulted_eq_after (c : FaultCode) (s : State) : s.faulted c = s.after (latchFault c s.ecu) (.fault c) := rfl

end Sys2Proof.Machine
end

