-- ==== Sys2Proof/Laws/Ops.lean ====
section
/-! SUPPORT. One lemma per shared operation that says everything it can do, to be cited instead of unfolding it. -/

namespace Sys2Proof.Machine

theorem presentDecoded_frame (f : Frame) (s : State) : presentDecoded (.frame f) s = s.after s.ecu (.frame f) := rfl

theorem presentDecoded_error (e : DecodeErr) (s : State) :
    presentDecoded (.error e) s = s.after s.ecu (.decodeError e) := rfl

theorem presentDecoded_fault (c : FaultCode) (s : State) : presentDecoded (.fault c) s = s.faulted c := rfl

/-- A response that fits is committed and wrapped. -/
theorem respond_of_le {outcome : Ecu × Bytes} (s : State) (h : outcome.2.length ≤ 7) :
    respond outcome s = s.after outcome.1 (.bytes (BitVec.ofNat 8 outcome.2.length :: outcome.2)) := by
  have : ¬ Config.sfCap < outcome.2.length := by simp only [Config.sfCap]; omega
  rw [respond, if_neg this, sfBytes_eq, present_setEcu_eq_after]

/-- A response that does not fit faults and commits nothing. -/
theorem respond_of_lt {outcome : Ecu × Bytes} (s : State) (h : 7 < outcome.2.length) :
    respond outcome s = s.faulted .respOverflow := by
  rw [respond, if_pos (show Config.sfCap < outcome.2.length from h), raiseFault_eq_faulted]

theorem lengthChecked_of_le {rest : Bytes} (d : Decoded) (h : rest.length ≤ 7) : lengthChecked rest d = d := by
  have : ¬ Config.maxFrameLen < rest.length + 1 := by simp only [Config.maxFrameLen]; omega
  rw [lengthChecked, if_neg this]

theorem lengthChecked_of_lt {rest : Bytes} (d : Decoded) (h : 7 < rest.length) :
    lengthChecked rest d = .fault .frameTooLong := by
  have : Config.maxFrameLen < rest.length + 1 := by simp only [Config.maxFrameLen]; omega
  rw [lengthChecked, if_pos this]

section CodecDecode

theorem codecDecode_of_lt {raw : Bytes} (h : 8 < raw.length) : codecDecode raw = .fault .frameTooLong := by
  unfold codecDecode
  rw [if_pos (show Config.maxFrameLen < raw.length from h)]

theorem codecDecode_nil : codecDecode [] = .error .emptyFrame := rfl

variable {b : Byte} {rest : Bytes} (h : rest.length ≤ 7)
include h

/-- The transport decode of a non-empty frame that is not too long, by its kind nibble. -/
theorem codecDecode_cons : codecDecode (b :: rest) =
    if b.toNat / 16 = 0 then .frame (.sf (lowNibble b) (rest.take (b.toNat % 16)))
    else if b.toNat / 16 = 1 then decodeFf (lowNibble b) rest
    else if b.toNat / 16 = 2 then .frame (.cf (lowNibble b) rest)
    else .error .unknownFrameKind := by
  have hlen : ¬ Config.maxFrameLen < (b :: rest).length := by simp only [Config.maxFrameLen, List.length_cons]; omega
  unfold codecDecode
  rw [if_neg hlen]
  simp only [highNibble_eq_iff, sfData, lowNibble_toNat]
  rfl

theorem codecDecode_sf (hb : b.toNat / 16 = 0) :
    codecDecode (b :: rest) = .frame (.sf (lowNibble b) (rest.take (b.toNat % 16))) := by
  rw [codecDecode_cons h, if_pos hb]

theorem codecDecode_ff (hb : b.toNat / 16 = 1) : codecDecode (b :: rest) = decodeFf (lowNibble b) rest := by
  rw [codecDecode_cons h, if_neg (by omega), if_pos hb]

theorem codecDecode_cf (hb : b.toNat / 16 = 2) : codecDecode (b :: rest) = .frame (.cf (lowNibble b) rest) := by
  rw [codecDecode_cons h, if_neg (by omega), if_neg (by omega), if_pos hb]

theorem codecDecode_unknown (hb : 3 ≤ b.toNat / 16) : codecDecode (b :: rest) = .error .unknownFrameKind := by
  rw [codecDecode_cons h, if_neg (by omega), if_neg (by omega), if_neg (by omega)]

end CodecDecode

theorem decodeFf_nil (hi : BitVec 4) : decodeFf hi [] = .fault .shortFf := rfl

theorem decodeFf_cons (hi : BitVec 4) (lo : Byte) (after : Bytes) :
    decodeFf hi (lo :: after) = .frame (.ff (BitVec.ofNat 12 (hi.toNat * 256 + lo.toNat)) (after.take 6)) := by
  rw [decodeFf, ffDl_eq_ofNat]; rfl

theorem fitChunk_of_le (policy : OversizePolicy) {cap : Nat} {c : Bytes} (h : c.length ≤ cap) :
    fitChunk policy cap c = some c := by
  unfold fitChunk
  rw [if_neg (by omega)]

theorem fitChunk_contractError {cap : Nat} {c : Bytes} (h : cap < c.length) :
    fitChunk .contractError cap c = none := by
  unfold fitChunk
  rw [if_pos h]

theorem fitChunk_truncate {cap : Nat} {c : Bytes} (h : cap < c.length) :
    fitChunk .truncate cap c = some (c.take cap) := by
  unfold fitChunk
  rw [if_pos h]

/-- A fitted chunk has at most the frame's capacity. -/
theorem fitChunk_length {policy : OversizePolicy} {cap : Nat} {c d : Bytes} (h : fitChunk policy cap c = some d) :
    d.length ≤ cap := by
  unfold fitChunk at h
  split at h
  · cases policy
    · simp at h
    · simp only [Option.some.injEq] at h
      subst h
      simp
  · simp only [Option.some.injEq] at h
    subst h
    omega

section Dispatch

variable (e : Ecu) (sp : Bytes)

theorem dispatch_testerPresent : dispatch e 0x3E sp = (e, [0x7E]) := rfl

theorem dispatch_sessionControl :
    dispatch e 0x10 sp = ({ e with sessionActive := true }, [0x50, sessionType sp]) := rfl

theorem dispatch_readDid : dispatch e 0x22 sp = serveReadDid e sp := rfl

theorem dispatch_dtcCount (rest : Bytes) : dispatch e 0x19 (0x01 :: rest) = serveDtcCount e := rfl

theorem dispatch_dtcList (rest : Bytes) : dispatch e 0x19 (0x02 :: rest) = serveDtcList e := rfl

theorem dispatch_otherSubfunction (h1 : sp.head? ≠ some 0x01) (h2 : sp.head? ≠ some 0x02) :
    dispatch e 0x19 sp = (e, [0x7F, 0x00, 0x12]) := by
  show (if sp.head? = some 0x01 then _ else if sp.head? = some 0x02 then _ else _) = _
  rw [if_neg h1, if_neg h2]; rfl

theorem dispatch_unsupported {sid : Byte} (h1 : sid ≠ 0x3E) (h2 : sid ≠ 0x10) (h3 : sid ≠ 0x22) (h4 : sid ≠ 0x19) :
    dispatch e sid sp = (e, [0x7F, 0x00, 0x12]) := by
  rw [dispatch, if_neg h1, if_neg h2, if_neg h3, if_neg h4]; rfl

end Dispatch

theorem serveReadDid_short (e : Ecu) {sp : Bytes} (h : sp.length < 2) :
    serveReadDid e sp = (e, [0x7F, 0x00, 0x13]) := by
  match sp, h with
  | [], _ => rfl
  | [_], _ => rfl

theorem serveReadDid_cons (e : Ecu) (hi lo : Byte) (ignored : Bytes) :
    serveReadDid e (hi :: lo :: ignored) = (e, 0x62 :: hi :: lo ::
      (didRead e.did (BitVec.ofNat 16 (hi.toNat * 256 + lo.toNat))).getD [0x00]) := by
  rw [serveReadDid, didOf_eq_ofNat]; rfl

theorem dtcRecords_eq (codes : List Dtc) : dtcRecords codes = codes.flatMap fun c =>
    [BitVec.ofNat 8 (c.toNat / 65536), BitVec.ofNat 8 (c.toNat / 256), BitVec.ofNat 8 c.toNat, 0x00] := by
  unfold dtcRecords
  congr 1
  funext c
  rw [dtcBytes_eq]; rfl

theorem dtcRecords_length (codes : List Dtc) : (dtcRecords codes).length = 4 * codes.length := by
  induction codes with
  | nil => rfl
  | cons c rest ih =>
    simp only [dtcRecords, List.flatMap_cons, List.length_append, List.length_cons] at ih ⊢
    rw [ih]
    simp [dtcBytes]
    omega

theorem respond_ends (outcome : Ecu × Bytes) (s : State) : ∃ e r, respond outcome s = s.after e r := by
  rcases Nat.lt_or_ge 7 outcome.2.length with h | h
  · exact ⟨_, _, respond_of_lt s h⟩
  · exact ⟨_, _, respond_of_le s h⟩

theorem presentDecoded_ends (d : Decoded) (s : State) : ∃ e r, presentDecoded d s = s.after e r := by
  cases d <;> exact ⟨_, _, rfl⟩

theorem handleDecoded_ends (d : Decoded) (s : State) : ∃ e r, handleDecoded d s = s.after e r := by
  match d with
  | .fault _ => exact ⟨_, _, rfl⟩
  | .error _ => exact ⟨_, _, rfl⟩
  | .frame (.sf _ []) => exact ⟨_, _, rfl⟩
  | .frame (.sf _ (_ :: _)) => exact respond_ends _ _
  | .frame (.ff _ _) => exact ⟨_, _, rfl⟩
  | .frame (.cf _ _) => exact ⟨_, _, rfl⟩
  | .frame .fc => exact ⟨_, _, rfl⟩

/-- The router's state record (R164): only SID 0x10 writes it. -/
theorem serveReadDid_ecu (e : Ecu) (sp : Bytes) : (serveReadDid e sp).1 = e := by
  unfold serveReadDid
  split <;> rfl

theorem dispatch_ecu (e : Ecu) {sid : Byte} (sp : Bytes) (h : sid ≠ 0x10) : (dispatch e sid sp).1 = e := by
  unfold dispatch
  rw [if_neg h]
  split_ifs <;> first | rfl | exact serveReadDid_ecu e sp

/-- The one result of a transaction is determined by the observation it leaves. -/
theorem result_unique {s t : State} {e : Ecu} {r r' : Result} (h : s.after e r = t)
    (h' : t.results = s.results ++ [r']) : r = r' := by
  subst h
  simpa using h'

end Sys2Proof.Machine
end

