-- ==== Sys2Proof/Laws/Exec.lean ====
section
/-! SUPPORT. What an instruction can do, said once: how every instruction ends, and the closed list of effects on the
state. Invariants and whole-machine rules follow from these without unfolding the meanings again. -/

namespace Sys2Proof.Machine

/-- Everything an instruction other than RESET can do: it ends in one result and changes no more than S. -/
theorem exec_ends {i : Instr} (s : State) (h : isReset i = false) : ∃ e r, exec i s = .next (s.after e r) := by
  have lift : ∀ t : State, (∃ e r, t = s.after e r) →
      ∃ e r, (.next t : Host.Outcome State Fault Refusal) = .next (s.after e r) := by
    rintro t ⟨e, r, rfl⟩
    exact ⟨e, r, rfl⟩
  cases i with
  | reset => simp [isReset] at h
  | pciSf | pciFf | pciCf | pciFc | pciReserved4To7 | pciReserved8ToF | decode =>
    exact lift _ (presentDecoded_ends _ _)
  | testerPresent | diagnosticSessionControl | readDataByIdentifier | readDtcInformation01 | readDtcInformation02
  | rdtciOther | sidUnsupported => exact lift _ (respond_ends _ _)
  | handleFrame => exact lift _ (handleDecoded_ends _ _)
  | clearDtc | readStatus | reservedCmd6To7 | reservedCmdCToF => exact ⟨_, _, rfl⟩
  | setDid =>
    simp only [exec, execSetDid]
    split <;> exact ⟨_, _, rfl⟩
  | addDtc =>
    simp only [exec, execAddDtc]
    split <;> exact ⟨_, _, rfl⟩
  | encodeSf =>
    simp only [exec, execEncodeSf]
    split <;> exact ⟨_, _, rfl⟩
  | encodeFf =>
    simp only [exec, execEncodeFf]
    split
    · exact ⟨_, _, rfl⟩
    · split <;> exact ⟨_, _, rfl⟩
  | encodeCf =>
    simp only [exec, execEncodeCf]
    split <;> exact ⟨_, _, rfl⟩

/-- What RESET does. -/
theorem exec_reset (id : EcuId) (s : State) : exec (.reset id) s =
    .next { s with constructed := true, ecu := Ecu.initial id, results := s.results ++ [.done] } := rfl

/-- The effects a transaction can have: none but its result, a latched fault, the session set, a data identifier
stored, a fault code appended, the fault codes cleared, or the reset. -/
inductive Effect (i : Instr) (s : State) : State → Prop where
  | none (r : Result) (nofault : ∀ c, r ≠ .fault c) (nodone : r ≠ .done) : Effect i s (s.after s.ecu r)
  | fault (c : FaultCode) : Effect i s (s.faulted c)
  | session (st : Byte)
      (by_request : (∃ sp, i = .diagnosticSessionControl sp) ∨
        ∃ raw n sp, i = .handleFrame raw ∧ codecDecode raw = .frame (.sf n (0x10 :: sp))) :
      Effect i s (s.after { s.ecu with sessionActive := true } (.bytes [0x02, 0x50, st]))
  | stored (id : Did) (v : Bytes) (by_request : i = .setDid id v) (fits : v.length ≤ s.params.didValMax) :
      Effect i s (s.after { s.ecu with did := didWrite s.ecu.did id v } .done)
  | appended (c : Dtc) (by_request : i = .addDtc c) (notFull : s.ecu.dtc.length ≠ s.params.dtcCap) :
      Effect i s (s.after { s.ecu with dtc := s.ecu.dtc ++ [c] } .done)
  | cleared (by_request : i = .clearDtc) : Effect i s (s.after { s.ecu with dtc := [] } .done)
  | reset (id : EcuId) (by_request : i = .reset id) :
      Effect i s { s with constructed := true, ecu := Ecu.initial id, results := s.results ++ [.done] }

section Effects

variable {i : Instr} {s : State}

theorem effect_presentDecoded (d : Decoded) : Effect i s (presentDecoded d s) := by
  cases d with
  | frame f => exact .none (.frame f) (by simp) (by simp)
  | error e => exact .none (.decodeError e) (by simp) (by simp)
  | fault c => exact .fault c

theorem effect_respond {outcome : Ecu × Bytes} (h : outcome.1 = s.ecu) : Effect i s (respond outcome s) := by
  rcases Nat.lt_or_ge 7 outcome.2.length with hlen | hlen
  · rw [respond_of_lt s hlen]; exact .fault _
  · rw [respond_of_le s hlen, h]; exact .none _ (by simp) (by simp)

theorem respond_sessionControl (sp : Bytes) : respond (serveSessionControl s.ecu sp) s =
    s.after { s.ecu with sessionActive := true } (.bytes [0x02, 0x50, sessionType sp]) := by
  rw [respond_of_le s (by simp [serveSessionControl])]; rfl

theorem effect_handlePayload {n : BitVec 4} {raw data : Bytes} (hi : i = .handleFrame raw)
    (hd : codecDecode raw = .frame (.sf n data)) : Effect i s (handlePayload data s) := by
  match data with
  | [] => exact .none _ (by simp) (by simp)
  | sid :: sp =>
    show Effect i s (respond (dispatch s.ecu sid sp) s)
    by_cases h : sid = 0x10
    · subst h
      show Effect i s (respond (serveSessionControl s.ecu sp) s)
      rw [respond_sessionControl]
      exact .session _ (.inr ⟨raw, n, sp, hi, hd⟩)
    · exact effect_respond (dispatch_ecu _ _ h)

/-- Every instruction has one of the listed effects. -/
theorem exec_effect {t : State} (h : exec i s = .next t) : Effect i s t := by
  cases i with
  | pciSf | pciFf | pciCf | pciFc | pciReserved4To7 | pciReserved8ToF | decode =>
    cases h; exact effect_presentDecoded _
  | testerPresent | readDtcInformation01 | readDtcInformation02 | rdtciOther | sidUnsupported =>
    cases h; exact effect_respond rfl
  | readDataByIdentifier => cases h; exact effect_respond (serveReadDid_ecu _ _)
  | diagnosticSessionControl sp =>
    cases h
    rw [respond_sessionControl]
    exact .session _ (.inl ⟨sp, rfl⟩)
  | handleFrame raw =>
    cases h
    match hd : codecDecode raw with
    | .fault c => exact .fault c
    | .error _ => exact .none _ (by simp) (by simp)
    | .frame (.sf _ data) => exact effect_handlePayload rfl hd
    | .frame (.ff _ _) => exact .none _ (by simp) (by simp)
    | .frame (.cf _ _) => exact .none _ (by simp) (by simp)
    | .frame .fc => exact .none _ (by simp) (by simp)
  | reset id => cases h; exact .reset id rfl
  | clearDtc => cases h; exact .cleared rfl
  | readStatus => cases h; exact .none _ (by simp) (by simp)
  | reservedCmd6To7 | reservedCmdCToF => cases h; exact .fault _
  | setDid id v =>
    simp only [exec, execSetDid] at h
    split_ifs at h with hv
    · cases h; exact .fault _
    · cases h; exact .stored id v rfl (by omega)
  | addDtc c =>
    simp only [exec, execAddDtc] at h
    split_ifs at h with hc
    · cases h; exact .fault _
    · cases h; exact .appended c rfl hc
  | encodeSf =>
    simp only [exec, execEncodeSf] at h
    split_ifs at h <;> cases h <;> exact .none _ (by simp) (by simp)
  | encodeFf =>
    simp only [exec, execEncodeFf] at h
    split_ifs at h
    · cases h; exact .none _ (by simp) (by simp)
    · split at h <;> cases h <;> exact .none _ (by simp) (by simp)
  | encodeCf =>
    simp only [exec, execEncodeCf] at h
    split at h <;> cases h <;> exact .none _ (by simp) (by simp)

end Effects

end Sys2Proof.Machine
end

