-- ==== Sys2Proof/Laws/PerInstr.lean ====
section
/-! SUPPORT. A law about every instruction, one lemma per constructor: encoding keeps the length of the byte-string
operand, which R101 bounds by HOST_BUF_MAX. -/

namespace Sys2Proof.Laws.EncodedLength

/-- The encoded transaction presents a byte string of exactly the instruction's operand length. -/
def Statement (i : Instr) : Prop := (encode i).operandLength = i.operandLength

theorem pciSf (sfDl : BitVec 4) (rest : Bytes) : Statement (.pciSf sfDl rest) := rfl

theorem pciFf (ffDlHi : BitVec 4) (rest : Bytes) : Statement (.pciFf ffDlHi rest) := rfl

theorem pciCf (sn : BitVec 4) (rest : Bytes) : Statement (.pciCf sn rest) := rfl

theorem pciFc (low : BitVec 4) (rest : Bytes) : Statement (.pciFc low rest) := rfl

theorem pciReserved4To7 (low : BitVec 6) (rest : Bytes) : Statement (.pciReserved4To7 low rest) := rfl

theorem pciReserved8ToF (low : BitVec 7) (rest : Bytes) : Statement (.pciReserved8ToF low rest) := rfl

theorem testerPresent (sp : Bytes) : Statement (.testerPresent sp) := rfl

theorem diagnosticSessionControl (sp : Bytes) : Statement (.diagnosticSessionControl sp) := rfl

theorem readDataByIdentifier (sp : Bytes) : Statement (.readDataByIdentifier sp) := rfl

theorem readDtcInformation01 (rest : Bytes) : Statement (.readDtcInformation01 rest) := rfl

theorem readDtcInformation02 (rest : Bytes) : Statement (.readDtcInformation02 rest) := rfl

theorem rdtciOther (sp : Bytes) : Statement (.rdtciOther sp) := rfl

theorem sidUnsupported (sid : Byte) (sp : Bytes) : Statement (.sidUnsupported sid sp) := rfl

theorem reset (ecuId : EcuId) : Statement (.reset ecuId) := rfl

theorem handleFrame (raw : Bytes) : Statement (.handleFrame raw) := rfl

theorem setDid (id : Did) (value : Bytes) : Statement (.setDid id value) := rfl

theorem addDtc (code : Dtc) : Statement (.addDtc code) := rfl

theorem clearDtc : Statement (.clearDtc) := rfl

theorem readStatus : Statement (.readStatus) := rfl

theorem encodeSf (payload : Bytes) : Statement (.encodeSf payload) := rfl

theorem encodeFf (chunk : Bytes) (totalLength : BitVec 16) : Statement (.encodeFf chunk totalLength) := rfl

theorem encodeCf (chunk : Bytes) (sequenceNumber : BitVec 8) : Statement (.encodeCf chunk sequenceNumber) := rfl

theorem decode (raw : Bytes) : Statement (.decode raw) := rfl

theorem reservedCmd6To7 (low : BitVec 1) (operands : Operands) : Statement (.reservedCmd6To7 low operands) := rfl

theorem reservedCmdCToF (low : BitVec 2) (operands : Operands) : Statement (.reservedCmdCToF low operands) := rfl

end Sys2Proof.Laws.EncodedLength
end

