-- ==== Sys2Proof/Laws/Store.lean ====
section
/-! SUPPORT. The laws of the data-identifier store: a read after a write, and that every operation keeps the canonical
form. -/

namespace Sys2Proof.Machine

theorem didRead_didWrite_same (m : DidStore) (id : Did) (v : Bytes) : didRead (didWrite m id v) id = some v := by
  induction m with
  | nil => simp [didWrite, didRead]
  | cons entry rest ih =>
    obtain ⟨key, value⟩ := entry
    simp only [didWrite]
    split
    · simp [didRead]
    · split
      · simp [didRead]
      · next h => simpa [didRead, Ne.symm h] using ih

theorem didRead_didWrite_other (m : DidStore) {id key : Did} (v : Bytes) (h : key ≠ id) :
    didRead (didWrite m id v) key = didRead m key := by
  induction m with
  | nil => simp [didWrite, didRead, Ne.symm h]
  | cons entry rest ih =>
    obtain ⟨k, value⟩ := entry
    simp only [didWrite]
    split
    · simp [didRead, Ne.symm h]
    · split
      · next hk => subst hk; simp [didRead, Ne.symm h]
      · simp [didRead, ih]

/-- What a write lists was listed before or is the entry written. -/
theorem mem_didWrite {m : DidStore} {id : Did} {v : Bytes} {entry : Did × Bytes} (h : entry ∈ didWrite m id v) :
    entry = (id, v) ∨ entry ∈ m := by
  induction m with
  | nil => simpa [didWrite] using h
  | cons head rest ih =>
    obtain ⟨key, value⟩ := head
    simp only [didWrite] at h
    split at h
    · simpa using h
    · split at h
      · rcases List.mem_cons.mp h with h | h
        · exact .inl h
        · exact .inr (List.mem_cons_of_mem _ h)
      · rcases List.mem_cons.mp h with h | h
        · exact .inr (h ▸ List.mem_cons_self)
        · exact (ih h).imp_right (List.mem_cons_of_mem _)

/-- A write keeps the canonical form (R34: unique keys). -/
theorem didWrite_wf {m : DidStore} (id : Did) (v : Bytes) (h : m.wf) : (didWrite m id v).wf := by
  induction m with
  | nil => simp [didWrite, DidStore.wf]
  | cons head rest ih =>
    obtain ⟨key, value⟩ := head
    obtain ⟨hhead, hrest⟩ := List.pairwise_cons.mp h
    simp only [didWrite]
    split
    · next hlt =>
      refine List.pairwise_cons.mpr ⟨fun entry hentry => ?_, h⟩
      rcases List.mem_cons.mp hentry with rfl | hentry
      · exact hlt
      · exact lt_trans hlt (hhead entry hentry)
    · split
      · next heq => subst heq; exact List.pairwise_cons.mpr ⟨hhead, hrest⟩
      · next hlt hne =>
        refine List.pairwise_cons.mpr ⟨fun entry hentry => ?_, ih hrest⟩
        rcases mem_didWrite hentry with rfl | hentry
        · have : id.toNat ≠ key.toNat := fun h => hne (BitVec.eq_of_toNat_eq h)
          simp only
          omega
        · exact hhead entry hentry

/-- A write of a value that fits keeps every value within the bound. -/
theorem didWrite_valuesFit {p : Params} {m : DidStore} {id : Did} {v : Bytes} (h : valuesFit p m)
    (hv : v.length ≤ p.didValMax) : valuesFit p (didWrite m id v) := by
  intro entry hentry
  rcases mem_didWrite hentry with rfl | hentry
  · exact hv
  · exact h entry hentry

/-- A second write of a key replaces the first (R188). -/
theorem didWrite_didWrite (m : DidStore) (id : Did) (v w : Bytes) :
    didWrite (didWrite m id v) id w = didWrite m id w := by
  induction m with
  | nil => simp [didWrite]
  | cons head rest ih =>
    obtain ⟨key, value⟩ := head
    simp only [didWrite]
    split
    · simp [didWrite]
    · split
      · simp [didWrite]
      · next hlt hne => simp [didWrite, hlt, hne, ih]

/-- The store of the reset state is in canonical form. -/
theorem reset_did_wf : State.reset.ecu.did.wf := List.Pairwise.nil

/-- So is every store of a machine that has just been reset. -/
theorem initial_did_wf (id : EcuId) : (Ecu.initial id).did.wf := List.Pairwise.nil

end Sys2Proof.Machine
end

