-- ==== Sys2Proof/Laws/Table.lean ====
section
/-! SUPPORT. The opcode table's rows: how many there are, where an instruction's row stands, and what a fallback row and a
subfunction row cover. -/

namespace Sys2Proof

theorem opcodeTable_length : opcodeTable.length = 25 := rfl

/-- Every instruction has a row. -/
theorem Instr.row_lt_length (i : Instr) : i.row < opcodeTable.length := by
  cases i <;> simp [Instr.row, opcodeTable_length]

/-- The last UDS_REQ row covers every request. -/
@[simp] theorem TableRow.covers_fallback (sid : Byte) (sp : Bytes) :
    (TableRow.service 0x00 0x00).covers (.request sid sp) = true := by
  simp [TableRow.covers]

/-- A row that fixes all of SID and subfunction covers exactly the requests that begin with them. -/
theorem TableRow.covers_subfunction (hi lo sid : Byte) (sp : Bytes) :
    (TableRow.subfunction 0xFFFF (hi ++ lo)).covers (.request sid sp) = true ↔ sid = hi ∧ sp.head? = some lo := by
  cases sp with
  | nil => simp [TableRow.covers]
  | cons sub _ =>
    have h : (0xFFFF : BitVec 16) = BitVec.allOnes 16 := by decide
    simp only [TableRow.covers, h, BitVec.and_allOnes, beq_iff_eq, List.head?_cons, Option.some.injEq]
    refine ⟨fun e => ?_, ?_⟩
    · have h := congrArg BitVec.toNat e
      rw [BitVec.toNat_append, BitVec.toNat_append, ← Nat.shiftLeft_add_eq_or_of_lt sub.isLt,
        ← Nat.shiftLeft_add_eq_or_of_lt lo.isLt, Nat.shiftLeft_eq, Nat.shiftLeft_eq] at h
      constructor <;> apply BitVec.eq_of_toNat_eq <;> omega
    · rintro ⟨rfl, rfl⟩; rfl

end Sys2Proof
end

