-- ==== Sys2Proof/Tests/Slice0.lean ====
section
/-! SUPPORT. The model's own tests. Expected results are the vectors of spec/95_test_vectors.md and words written
out bit by bit from the encoding tables of spec/30_encoding.md. Last come the witnesses: for each statement with
hypotheses, concrete values that meet them, clause by clause at the boundaries. -/

namespace Sys2Proof.Tests

open Sys2Proof
open Sys2Proof.Machine

/-- The result a transaction ended in. -/
def resultOf : Host.Outcome State Fault Refusal → Option Result
  | .next t => t.results.getLast?
  | .fault _ => none
  | .refused _ => none

/-- The state after a transaction, the reset state when there is none. -/
def stateOf : Host.Outcome State Fault Refusal → State
  | .next t => t
  | .fault _ => State.reset
  | .refused _ => State.reset

/-- Why a step stopped. -/
def stopOf : Host.Outcome State Fault Refusal → Option (Fault ⊕ Refusal)
  | .next _ => none
  | .fault f => some (.inl f)
  | .refused r => some (.inr r)

/-- An outcome that is no stop is its next state. -/
theorem next_of_stopOf_none (o : Host.Outcome State Fault Refusal) (h : stopOf o = none) : o = .next (stateOf o) := by
  cases o with
  | next _ => rfl
  | fault _ => cases h
  | refused _ => cases h

/-- The transaction's next state presents the one further result `r`. -/
abbrev EndsIn (i : Instr) (s : State) (r : Result) : Prop := (stateOf (exec i s)).results = s.results ++ [r]

/-- The result of one transaction from the reset state. -/
def run (i : Instr) : Option Result := resultOf (exec i State.reset)

/-- The reset state with stores filled. -/
def filled (did : DidStore) (dtc : List Dtc) : State :=
  { State.reset with ecu := { State.reset.ecu with did := did, dtc := dtc } }

/-- The reset state under other parameters. -/
def withParams (p : Params) : State := { State.reset with params := p }

/-- The reset state with transactions to present. -/
def presenting (ts : List Transaction) : State := { State.reset with pending := ts }

/-- WRAP_TRANSPORT_ERRORS = true. -/
def wrapping : State := withParams { Params.default with wrapTransportErrors := true }

/-- OVERSIZE_POLICY = TRUNCATE. -/
def truncating : State := withParams { Params.default with oversizePolicy := .truncate }

/-- Parameters small enough to reach: DTC_CAP = 2, DID_VAL_MAX = 6, HOST_BUF_MAX = 8. -/
def small : Params := { Params.default with dtcCap := 2, didValMax := 6, hostBufMax := 8 }

/-- A state under the small parameters, with codes stored and transactions to present. -/
def smallState (dtc : List Dtc) (ts : List Transaction) : State :=
  { filled [] dtc with params := small, pending := ts }

/-- The state before the first RESET. -/
def unbuilt (ts : List Transaction) : State := { presenting ts with constructed := false }

/-! ### Well-formedness: each check refuses an ill-formed term -/

theorem test_wf_subfunction01_is_no_other : (Instr.rdtciOther [0x01]).wellFormed 8 = false := by decide
theorem test_wf_subfunction02_is_no_other : (Instr.rdtciOther [0x02, 0xFF]).wellFormed 8 = false := by decide
theorem test_wf_routed_sids_are_not_unsupported :
    (Instr.sidUnsupported 0x3E []).wellFormed 8 = false ∧ (Instr.sidUnsupported 0x10 []).wellFormed 8 = false ∧
    (Instr.sidUnsupported 0x22 []).wellFormed 8 = false ∧ (Instr.sidUnsupported 0x19 []).wellFormed 8 = false := by
  decide
theorem test_wf_operand_too_long :
    (Instr.handleFrame (List.replicate 9 0)).wellFormed 8 = false ∧
    (Instr.handleFrame (List.replicate 8 0)).wellFormed 8 = true := by decide
theorem test_wf_accepts_fallbacks :
    (Instr.rdtciOther []).wellFormed 8 = true ∧ (Instr.rdtciOther [0x0A, 0x01]).wellFormed 8 = true ∧
    (Instr.sidUnsupported 0xFF []).wellFormed 8 = true := by decide

/-! ### Decoding: words written out from R85 (PCI) -/

theorem test_decode_pci_words :
    decodeTransaction (.frame 0b00000111 [0xAA]) = .pciSf 7 [0xAA] ∧
    decodeTransaction (.frame 0b00010010 [0x34]) = .pciFf 2 [0x34] ∧
    decodeTransaction (.frame 0b00101111 []) = .pciCf 15 [] ∧
    decodeTransaction (.frame 0b00110101 [0x01]) = .pciFc 5 [0x01] ∧
    decodeTransaction (.frame 0b01000000 []) = .pciReserved4To7 0x00 [] ∧
    decodeTransaction (.frame 0b01111110 []) = .pciReserved4To7 0x3E [] ∧
    decodeTransaction (.frame 0b10000001 []) = .pciReserved8ToF 0x01 [] ∧
    decodeTransaction (.frame 0b11111111 []) = .pciReserved8ToF 0x7F [] := by decide

/-! ### Decoding: words written out from R95 (UDS_REQ) -/

theorem test_decode_request_words :
    decodeTransaction (.request 0b00111110 []) = .testerPresent [] ∧
    decodeTransaction (.request 0b00010000 [0x03]) = .diagnosticSessionControl [0x03] ∧
    decodeTransaction (.request 0b00100010 [0x01]) = .readDataByIdentifier [0x01] ∧
    decodeTransaction (.request 0b00011001 [0b00000001, 0xFF]) = .readDtcInformation01 [0xFF] ∧
    decodeTransaction (.request 0b00011001 [0b00000010]) = .readDtcInformation02 [] ∧
    decodeTransaction (.request 0b00011001 [0b00000011]) = .rdtciOther [0x03] ∧
    decodeTransaction (.request 0b00011001 []) = .rdtciOther [] ∧
    decodeTransaction (.request 0b01111110 [0x01]) = .sidUnsupported 0x7E [0x01] := by decide

/-! ### Decoding: words written out from R100 (HOST_CMD) -/

theorem test_decode_session_command_words :
    decodeTransaction (.command 0b0000 { ecuId := [0x78] }) = .reset [0x78] ∧
    decodeTransaction (.command 0b0001 { bytes := [0x01, 0x3E] }) = .handleFrame [0x01, 0x3E] ∧
    decodeTransaction (.command 0b0010 { did := 0xF190, bytes := [] }) = .setDid 0xF190 [] ∧
    decodeTransaction (.command 0b0011 { dtc := 0x0A0B0C }) = .addDtc 0x0A0B0C ∧
    decodeTransaction (.command 0b0100 {}) = .clearDtc ∧
    decodeTransaction (.command 0b0101 {}) = .readStatus ∧
    decodeTransaction (.command 0b0111 {}) = .reservedCmd6To7 1 {} ∧
    decodeTransaction (.command 0b1110 {}) = .reservedCmdCToF 2 {} := by decide

theorem test_decode_codec_command_words :
    decodeTransaction (.command 0b1000 { bytes := [0x7E] }) = .encodeSf [0x7E] ∧
    decodeTransaction (.command 0b1001 { bytes := [0xAA], totalLength := 0x123 }) = .encodeFf [0xAA] 0x123 ∧
    decodeTransaction (.command 0b1010 { bytes := [0x09], sequenceNumber := 0xFF }) = .encodeCf [0x09] 0xFF ∧
    decodeTransaction (.command 0b1011 { bytes := [0x13] }) = .decode [0x13] := by decide

/-- R85, R92: an empty frame and an empty payload are no word of the inner formats. -/
theorem test_decode_rejects_by_name :
    decodeFrame [] = .error .noPciByte ∧ decodeRequest [] = .error .noServiceIdentifier ∧
    decodeFrame [0x10, 0x14] = .ok (.pciFf 0 [0x14]) ∧ decodeRequest [0x19, 0x02] = .ok (.readDtcInformation02 []) := by
  refine ⟨rfl, rfl, rfl, rfl⟩

/-- R106: the table's bits; SID first in the 16-bit rows. -/
theorem test_decode_table_words :
    decodeTableWord 16 0x1901 = some (.readDtcInformation01 [0, 0, 0, 0, 0]) ∧
    decodeTableWord 16 0x1902 = some (.readDtcInformation02 [0, 0, 0, 0, 0]) ∧
    decodeTableWord 8 0x3E = some (.testerPresent [0, 0, 0, 0, 0, 0]) ∧
    decodeTableWord 8 0x40 = some (.pciReserved4To7 0 [0, 0, 0, 0, 0, 0, 0]) ∧
    decodeTableWord 8 0x0B = some (.decode []) ∧
    decodeTableWord 0 0 = some (.sidUnsupported 0 [0, 0, 0, 0, 0, 0]) := by decide

/-- R106: rows of spec/opcode_table.json by their place in it, RDTCI_OTHER, ReadDTCInformation_02 and RESERVED_CMD_6_7. -/
theorem test_opcodeTable_rows :
    opcodeTable[11]? = some (.service 0xFF 0x19) ∧ opcodeTable[10]? = some (.subfunction 0xFFFF 0x1902) ∧
    opcodeTable[23]? = some (.host 0b1110 0b0110) ∧ (Instr.rdtciOther []).row = 11 ∧
    (Instr.readDtcInformation02 []).row = 10 ∧ (Instr.reservedCmd6To7 0 {}).row = 23 := by decide

/-- R106: the fallback row covers an earlier row's words, so the order decides, and a short request is no 16-bit row's. -/
theorem test_tableRow_covers :
    (TableRow.service 0xFF 0x19).covers (.request 0x19 [0x01]) = true ∧
    (TableRow.subfunction 0xFFFF 0x1901).covers (.request 0x19 [0x01, 0xFF]) = true ∧
    (TableRow.subfunction 0xFFFF 0x1901).covers (.request 0x19 []) = false ∧
    (TableRow.pci 0xC0 0x40).covers (.frame 0x7F []) = true ∧ (TableRow.pci 0xC0 0x40).covers (.frame 0x80 []) = false ∧
    (TableRow.host 0xF 0x1).covers (.frame 0x01 []) = false := by decide

/-! ### The codec: spec/95 L2.1 to L2.4 -/

theorem test_encodeSf :
    run (.encodeSf []) = some (.bytes [0x00]) ∧
    run (.encodeSf [1, 2, 3, 4, 5, 6, 7]) = some (.bytes [0x07, 1, 2, 3, 4, 5, 6, 7]) ∧
    run (.encodeSf [1, 2, 3, 4, 5, 6, 7, 8]) = some (.contractError .payloadTooLarge) := by decide

theorem test_encodeFf :
    run (.encodeFf [] 0) = some (.bytes [0x10, 0x00]) ∧
    run (.encodeFf [0xAA] 0x123) = some (.bytes [0x11, 0x23, 0xAA]) ∧
    run (.encodeFf [1, 2, 3, 4, 5, 6] 4095) = some (.bytes [0x1F, 0xFF, 1, 2, 3, 4, 5, 6]) := by decide

theorem test_encodeFf_errors :
    run (.encodeFf [] 4096) = some (.contractError .lengthOutOfRange) ∧
    run (.encodeFf [1, 2, 3, 4, 5, 6, 7] 100) = some (.contractError .chunkTooLarge) ∧
    run (.encodeFf [1, 2, 3, 4, 5, 6, 7] 5000) = some (.contractError .lengthOutOfRange) ∧
    resultOf (exec (.encodeFf [1, 2, 3, 4, 5, 6, 7] 100) truncating) =
      some (.bytes [0x10, 0x64, 1, 2, 3, 4, 5, 6]) := by decide

theorem test_encodeCf :
    run (.encodeCf [0x44, 0x45] 17) = some (.bytes [0x21, 0x44, 0x45]) ∧
    run (.encodeCf [0x09] 0xFF) = some (.bytes [0x2F, 0x09]) ∧
    run (.encodeCf [0x09] 16) = some (.bytes [0x20, 0x09]) := by decide

theorem test_encodeCf_oversize :
    run (.encodeCf [1, 2, 3, 4, 5, 6, 7, 8] 3) = some (.contractError .chunkTooLarge) ∧
    resultOf (exec (.encodeCf [1, 2, 3, 4, 5, 6, 7, 8] 3) truncating) =
      some (.bytes [0x23, 1, 2, 3, 4, 5, 6, 7]) := by decide

theorem test_decode_frames :
    run (.decode [0x05, 0x22]) = some (.frame (.sf 5 [0x22])) ∧
    run (.decode [0x01, 0x3E, 0xAA, 0xAA]) = some (.frame (.sf 1 [0x3E])) ∧
    run (.decode [0x0F, 1, 2, 3, 4, 5, 6, 7]) = some (.frame (.sf 15 [1, 2, 3, 4, 5, 6, 7])) ∧
    run (.decode [0x12, 0x34, 0x56]) = some (.frame (.ff 564 [0x56])) ∧
    run (.decode [0x1F, 0xFF]) = some (.frame (.ff 4095 [])) ∧
    run (.decode [0x21, 0x44, 0x45]) = some (.frame (.cf 1 [0x44, 0x45])) := by decide

theorem test_decode_errors :
    run (.decode []) = some (.decodeError .emptyFrame) ∧
    run (.decode [0x30, 0x00, 0x00]) = some (.decodeError .unknownFrameKind) ∧
    run (.decode [0xF0]) = some (.decodeError .unknownFrameKind) ∧
    run (.decode [0x13]) = some (.fault .shortFf) ∧
    run (.decode [0x01, 0x3E, 0, 0, 0, 0, 0, 0, 0]) = some (.fault .frameTooLong) ∧
    statusWord (stateOf (exec (.decode [0x13]) State.reset)).ecu = 0x0004 := by decide

theorem test_pciSf : run (.pciSf 3 [0x22, 0x01, 0x02]) = some (.frame (.sf 3 [0x22, 0x01, 0x02])) := by decide
theorem test_pciFf :
    run (.pciFf 0 [0x14, 1, 2, 3, 4, 5, 6]) = some (.frame (.ff 20 [1, 2, 3, 4, 5, 6])) ∧
    run (.pciFf 3 []) = some (.fault .shortFf) := by decide
theorem test_pciCf : run (.pciCf 15 []) = some (.frame (.cf 15 [])) := by decide
theorem test_pciFc : run (.pciFc 0 [0x00, 0x00]) = some (.decodeError .unknownFrameKind) := by decide
theorem test_pciReserved4To7 :
    run (.pciReserved4To7 0x3F [0x00, 0x12]) = some (.decodeError .unknownFrameKind) := by decide
theorem test_pciReserved8ToF : run (.pciReserved8ToF 0x70 []) = some (.decodeError .unknownFrameKind) := by decide

/-! ### The router, through HANDLE_FRAME: spec/95 L2.5 -/

theorem test_testerPresent :
    run (.handleFrame [0x02, 0x3E, 0x80]) = some (.bytes [0x01, 0x7E]) ∧
    run (.testerPresent [0x80]) = some (.bytes [0x01, 0x7E]) := by decide

theorem test_diagnosticSessionControl :
    run (.handleFrame [0x01, 0x10]) = some (.bytes [0x02, 0x50, 0x00]) ∧
    run (.diagnosticSessionControl [0x02, 0x99]) = some (.bytes [0x02, 0x50, 0x02]) ∧
    statusWord (stateOf (exec (.handleFrame [0x02, 0x10, 0x03]) State.reset)).ecu = 0x0001 := by decide

theorem test_readDataByIdentifier_short :
    run (.handleFrame [0x01, 0x22]) = some (.bytes [0x03, 0x7F, 0x00, 0x13]) ∧
    run (.readDataByIdentifier [0x01]) = some (.bytes [0x03, 0x7F, 0x00, 0x13]) ∧
    run (.handleFrame [0x03, 0x22, 0xF1, 0x90]) = some (.bytes [0x04, 0x62, 0xF1, 0x90, 0x00]) := by decide

theorem test_readDataByIdentifier_value :
    resultOf (exec (.handleFrame [0x05, 0x22, 0x01, 0x02, 0x03, 0x04]) (filled [(0x0102, [0x76, 0x31, 0x2E, 0x32])] [])) =
      some (.bytes [0x07, 0x62, 0x01, 0x02, 0x76, 0x31, 0x2E, 0x32]) ∧
    resultOf (exec (.readDataByIdentifier [0x00, 0x01]) (filled [(0x0001, [])] [])) =
      some (.bytes [0x03, 0x62, 0x00, 0x01]) ∧
    resultOf (exec (.handleFrame [0x03, 0x22, 0x01, 0x02]) (filled [(0x0102, [1, 2, 3, 4, 5])] [])) =
      some (.fault .respOverflow) := by decide

theorem test_readDtcInformation01 :
    run (.handleFrame [0x02, 0x19, 0x01]) = some (.bytes [0x05, 0x59, 0x01, 0x00, 0x00, 0x00]) ∧
    resultOf (exec (.readDtcInformation01 []) (filled [] [0x123456, 0x123456])) =
      some (.bytes [0x05, 0x59, 0x01, 0x00, 0x02, 0x00]) := by decide

theorem test_readDtcInformation02 :
    run (.handleFrame [0x02, 0x19, 0x02]) = some (.bytes [0x02, 0x59, 0x02]) ∧
    resultOf (exec (.readDtcInformation02 []) (filled [] [0x123456])) =
      some (.bytes [0x06, 0x59, 0x02, 0x12, 0x34, 0x56, 0x00]) ∧
    resultOf (exec (.handleFrame [0x02, 0x19, 0x02]) (filled [] [0x123456, 0x000001])) =
      some (.fault .respOverflow) := by decide

theorem test_rdtciOther :
    run (.handleFrame [0x01, 0x19]) = some (.bytes [0x03, 0x7F, 0x00, 0x12]) ∧
    run (.rdtciOther [0x0A]) = some (.bytes [0x03, 0x7F, 0x00, 0x12]) := by decide

theorem test_sidUnsupported :
    run (.handleFrame [0x01, 0x23]) = some (.bytes [0x03, 0x7F, 0x00, 0x12]) ∧
    run (.sidUnsupported 0xFF []) = some (.bytes [0x03, 0x7F, 0x00, 0x12]) := by decide

/-! ### HANDLE_FRAME's transport stages: spec/95 L2.6 -/

theorem test_handleFrame_transport :
    run (.handleFrame []) = some (.bytes [0x7F, 0x00, 0x12]) ∧
    run (.handleFrame [0x21, 0x01]) = some (.bytes [0x7F, 0x00, 0x31]) ∧
    run (.handleFrame [0x04]) = some (.bytes [0x03, 0x7F, 0x00, 0x12]) ∧
    run (.handleFrame [0x05, 0x10, 0x03]) = some (.bytes [0x02, 0x50, 0x03]) ∧
    run (.handleFrame [0x13]) = some (.fault .shortFf) ∧
    run (.handleFrame [0x01, 0x3E, 0, 0, 0, 0, 0, 0, 0]) = some (.fault .frameTooLong) := by decide

theorem test_handleFrame_wrapped :
    resultOf (exec (.handleFrame [0x30, 0x00, 0x00]) wrapping) = some (.bytes [0x03, 0x7F, 0x00, 0x12]) ∧
    resultOf (exec (.handleFrame [0x10, 0x14, 0x22, 0x01, 0x02, 0x00, 0x00, 0x00]) wrapping) =
      some (.bytes [0x03, 0x7F, 0x00, 0x31]) ∧
    resultOf (exec (.handleFrame [0x00]) wrapping) = some (.bytes [0x03, 0x7F, 0x00, 0x12]) := by decide

/-! ### Configuration and control: spec/95 L2.7 -/

theorem test_setDid :
    (stateOf (exec (.setDid 0x0102 [0xAB]) (filled [(0x0101, [1]), (0x0102, [0x61, 0x62, 0x63]), (0x0103, [3])] []))).ecu.did =
      [(0x0101, [1]), (0x0102, [0xAB]), (0x0103, [3])] ∧
    (stateOf (exec (.setDid 0x0002 [2]) (filled [(0x0001, [1]), (0x0003, [3])] []))).ecu.did =
      [(0x0001, [1]), (0x0002, [2]), (0x0003, [3])] := by decide

theorem test_setDid_too_long :
    resultOf (exec (.setDid 0x0001 [1, 2, 3, 4, 5, 6, 7]) (withParams small)) =
      some (.fault .didValueTooLong) ∧
    (stateOf (exec (.setDid 0x0001 [1, 2, 3, 4, 5, 6, 7]) (withParams small))).ecu =
      { Ecu.initial [] with fault := 0b001000 } := by decide

theorem test_addDtc :
    (stateOf (exec (.addDtc 0x000001) (filled [] [0x000001]))).ecu.dtc = [0x000001, 0x000001] ∧
    run (.addDtc 0x000000) = some .done := by decide

theorem test_addDtc_full :
    resultOf (exec (.addDtc 3) (smallState [1, 2] [])) =
      some (.fault .dtcFull) ∧
    (stateOf (exec (.addDtc 3) (smallState [1, 2] []))).ecu =
      { Ecu.initial [] with dtc := [1, 2], fault := 0b010000 } := by decide

theorem test_clearDtc :
    run .clearDtc = some .done ∧ (stateOf (exec .clearDtc (filled [] [1, 2]))).ecu.dtc = [] := by decide

theorem test_readStatus :
    run .readStatus = some (.status 0x0000) ∧
    resultOf (exec .readStatus { State.reset with
      ecu := { State.reset.ecu with sessionActive := true, dtc := [1, 2], fault := 0b000100 } }) =
      some (.status 0x0209) := by decide

theorem test_reset :
    (stateOf (exec (.reset [0x78]) { filled [(1, [1])] [2] with constructed := false })).ecu = Ecu.initial [0x78] ∧
    (stateOf (exec (.reset [0x78]) (unbuilt []))).constructed = true := by decide

theorem test_reservedCmd6To7 :
    run (.reservedCmd6To7 1 {}) = some (.fault .badCmd) ∧
    statusWord (stateOf (exec (.reservedCmd6To7 1 {}) State.reset)).ecu = 0x0040 := by decide

theorem test_reservedCmdCToF :
    run (.reservedCmdCToF 0 { bytes := [1], did := 2 }) = some (.fault .badCmd) ∧
    statusWord (stateOf (exec (.reservedCmdCToF 3 {}) State.reset)).ecu = 0x0040 := by decide

/-! ### The step and the store -/

/-- R102: the port is free again and the result is presented. -/
theorem test_step_runs :
    resultOf (step (presenting [.command 0x1 { bytes := [0x01, 0x3E] }, .command 0x5 {}])) = some (.bytes [0x01, 0x7E]) ∧
    (stateOf (step (presenting [.command 0x1 { bytes := [0x01, 0x3E] }, .command 0x5 {}]))).pending = [.command 0x5 {}] := by
  decide

/-- R242, R230, R241. -/
theorem test_step_stops :
    stopOf (step (unbuilt [.command 0x5 {}])) = some (.inl .beforeFirstReset) ∧
    stopOf (step (smallState [] [.command 0x8 { bytes := List.replicate 9 0 }])) = some (.inr .operandTooLong) ∧
    resultOf (step (unbuilt [.command 0x0 {}])) = some .done ∧
    stopOf (step State.reset) = none := by decide

/-- The transaction of the table's bits runs at the very next step. -/
theorem test_withFetchWord :
    resultOf (step (State.reset.withFetchWord 4 0x5)) = some (.status 0x0000) ∧
    resultOf (step (State.reset.withFetchWord 16 0x1902)) = some (.bytes [0x02, 0x59, 0x02]) ∧
    resultOf (step (State.reset.withFetchWord 8 0x20)) = some (.frame (.cf 0 [0, 0, 0, 0, 0, 0, 0])) := by decide

theorem test_didStore_order :
    didWrite (didWrite (didWrite [] 0xFFFF [1]) 0x0000 [2]) 0x8000 [] = [(0x0000, [2]), (0x8000, []), (0xFFFF, [1])] ∧
    DidStore.wf [(0x0000, [2]), (0x8000, []), (0xFFFF, [1])] ∧ ¬ DidStore.wf [(0x0002, []), (0x0002, [])] := by decide

/-! ### Witnesses: the encodings and the step -/

/-- FrameKindFromHighNibble: both ends of every clause's range. -/
theorem witness_FrameKindFromHighNibble :
    (0x00#8).toNat / 16 = 0 ∧ (0x0F#8).toNat / 16 = 0 ∧ (0x10#8).toNat / 16 = 1 ∧ (0x1F#8).toNat / 16 = 1 ∧
    (0x20#8).toNat / 16 = 2 ∧ (0x2F#8).toNat / 16 = 2 ∧ (0x30#8).toNat / 16 = 3 ∧ (0x3F#8).toNat / 16 = 3 ∧
    4 ≤ (0x40#8).toNat / 16 ∧ (0x7F#8).toNat / 16 ≤ 7 ∧ 8 ≤ (0x80#8).toNat / 16 ∧ 8 ≤ (0xFF#8).toNat / 16 := by decide

/-- ServiceRoutingMap: a subfunction next to the routed ones, a SID next to a routed one. -/
theorem witness_ServiceRoutingMap :
    ((0x00 : Byte) ≠ 0x01 ∧ (0x00 : Byte) ≠ 0x02) ∧ ((0x03 : Byte) ≠ 0x01 ∧ (0x03 : Byte) ≠ 0x02) ∧
    ((0x3F : Byte) ≠ 0x3E ∧ (0x3F : Byte) ≠ 0x10 ∧ (0x3F : Byte) ≠ 0x22 ∧ (0x3F : Byte) ≠ 0x19) := by decide

/-- DecodeOfEncode: a fallback row and an ordinary one. -/
theorem witness_DecodeOfEncode :
    (Instr.sidUnsupported 0x23 [0x01]).canonical = true ∧ (Instr.rdtciOther [0x03]).canonical = true ∧
    (Instr.encodeFf [0xAA] 0xFFFF).canonical = true := by decide

/-- StepRunsDecodedInstruction: after the first RESET with the longest operand, and before it with RESET. -/
theorem witness_StepRunsDecodedInstruction :
    ((smallState [] [.command 0x1 { bytes := List.replicate 8 0 }]).pending =
        .command 0x1 { bytes := List.replicate 8 0 } :: [] ∧
      (smallState [] [.command 0x1 { bytes := List.replicate 8 0 }]).constructed = true ∧
      (decodeTransaction (.command 0x1 { bytes := List.replicate 8 0 })).operandLength ≤
        (smallState [] [.command 0x1 { bytes := List.replicate 8 0 }]).params.hostBufMax) ∧
    ((unbuilt [.command 0x0 { ecuId := [1] }]).pending = .command 0x0 { ecuId := [1] } :: [] ∧
      (∃ id, decodeTransaction (.command 0x0 { ecuId := [1] }) = .reset id) ∧
      (decodeTransaction (.command 0x0 { ecuId := [1] })).operandLength ≤
        (unbuilt [.command 0x0 { ecuId := [1] }]).params.hostBufMax) :=
  ⟨⟨rfl, rfl, by decide⟩, rfl, ⟨[1], rfl⟩, by decide⟩

/-- StepWithoutMove: its three clauses, the third with one byte too many. -/
theorem witness_StepWithoutMove :
    State.reset.pending = [] ∧
    ((unbuilt [.command 0x4 {}]).pending = .command 0x4 {} :: [] ∧ (unbuilt [.command 0x4 {}]).constructed = false ∧
      ∀ id, decodeTransaction (.command 0x4 {}) ≠ .reset id) ∧
    ((smallState [] [.command 0xB { bytes := List.replicate 9 0 }]).constructed = true ∧
      (smallState [] [.command 0xB { bytes := List.replicate 9 0 }]).params.hostBufMax <
        (decodeTransaction (.command 0xB { bytes := List.replicate 9 0 })).operandLength) :=
  ⟨rfl, ⟨rfl, rfl, fun _ h => by cases h⟩, rfl, by decide⟩

/-- EveryTransactionCompletes. -/
theorem witness_EveryTransactionCompletes :
    (presenting [.request 0x22 [0x01, 0x02]]).pending = .request 0x22 [0x01, 0x02] :: [] ∧
    (presenting [.request 0x22 [0x01, 0x02]]).constructed = true ∧
    (decodeTransaction (.request 0x22 [0x01, 0x02])).operandLength ≤
      (presenting [.request 0x22 [0x01, 0x02]]).params.hostBufMax := by decide

/-- SequenceOfTransactionsCompletes: two transactions, of which the second, at k = 1, reads the first. -/
theorem witness_SequenceOfTransactionsCompletes :
    (presenting [.command 0x3 { dtc := 1 }, .command 0x5 {}]).constructed = true ∧
    (presenting [.command 0x3 { dtc := 1 }, .command 0x5 {}]).pending = [.command 0x3 { dtc := 1 }, .command 0x5 {}] ∧
    [Transaction.command 0x3 { dtc := 1 }, .command 0x5 {}][1]? = some (.command 0x5 {}) ∧
    ∀ t ∈ [Transaction.command 0x3 { dtc := 1 }, .command 0x5 {}],
      (decodeTransaction t).operandLength ≤ (presenting [.command 0x3 { dtc := 1 }, .command 0x5 {}]).params.hostBufMax := by
  decide

/-! ### Witnesses: the codec -/

/-- EncodeSfResult: 7 and 8 bytes. -/
theorem witness_EncodeSfResult :
    (List.replicate 7 (0xFF : Byte)).length ≤ 7 ∧ 7 < (List.replicate 8 (0xFF : Byte)).length := by decide

/-- EncodeFfResult: 4095 and 4096, 6 and 7 bytes, both policies. -/
theorem witness_EncodeFfResult :
    4095 < (4096#16).toNat ∧ (4095#16).toNat ≤ 4095 ∧ (List.replicate 6 (0 : Byte)).length ≤ 6 ∧
    6 < (List.replicate 7 (0 : Byte)).length ∧ State.reset.params.oversizePolicy = .contractError ∧
    truncating.params.oversizePolicy = .truncate := by decide

/-- EncodeCfResult: 7 and 8 bytes, both policies. -/
theorem witness_EncodeCfResult :
    (List.replicate 7 (0 : Byte)).length ≤ 7 ∧ 7 < (List.replicate 8 (0 : Byte)).length ∧
    State.reset.params.oversizePolicy = .contractError ∧ truncating.params.oversizePolicy = .truncate := by decide

/-- DecodeResult: 9 bytes, then each kind with 7 bytes after byte 0 or none. -/
theorem witness_DecodeResult :
    8 < (List.replicate 9 (0 : Byte)).length ∧ (List.replicate 7 (0 : Byte)).length ≤ 7 ∧
    (0x0F#8).toNat / 16 = 0 ∧ (0x1F#8).toNat / 16 = 1 ∧ (0x2F#8).toNat / 16 = 2 ∧ 3 ≤ (0x30#8).toNat / 16 ∧
    ([0xFF] : Bytes) = 0xFF :: [] := by decide

/-- DecodeSingleFrame: a full frame, and a frame shorter than SF_DL. -/
theorem witness_DecodeSingleFrame :
    (List.replicate 7 (0 : Byte)).length ≤ 7 ∧ ([0x22] : Bytes).length ≤ 7 ∧ ([0x22] : Bytes).length < (5#4).toNat := by
  decide

/-- DecodeFirstFrame: the longest chunk. -/
theorem witness_DecodeFirstFrame : (List.replicate 6 (0 : Byte)).length ≤ 6 := by decide

/-- DecodeConsecutiveFrame: the longest chunk. -/
theorem witness_DecodeConsecutiveFrame : (List.replicate 7 (0 : Byte)).length ≤ 7 := by decide

/-- DecodeUnknownKind: the longest frame, the lowest and the highest kind, and an instruction with a next state. -/
theorem witness_DecodeUnknownKind :
    (List.replicate 7 (0 : Byte)).length ≤ 7 ∧ 3 ≤ (0x30#8).toNat / 16 ∧ 3 ≤ (0xFF#8).toNat / 16 ∧
    exec (.pciFc 0 []) State.reset = .next (stateOf (exec (.pciFc 0 []) State.reset)) :=
  ⟨by decide, by decide, by decide, next_of_stopOf_none _ (by decide)⟩

/-- PciRowsAnswer: one byte too many, the longest frame, and a FirstFrame with and without its length byte. -/
theorem witness_PciRowsAnswer :
    7 < (List.replicate 8 (0 : Byte)).length ∧ (List.replicate 7 (0 : Byte)).length ≤ 7 ∧
    (([] : Bytes).length ≤ 7 ∧ ([] : Bytes) = []) ∧
    (([0x14, 1, 2, 3, 4, 5, 6] : Bytes).length ≤ 7 ∧ ([0x14, 1, 2, 3, 4, 5, 6] : Bytes) = 0x14 :: [1, 2, 3, 4, 5, 6]) := by
  decide

/-- SingleFrameRoundTrip and SegmentRoundTrips: the longest payload and chunks, the largest length. -/
theorem witness_RoundTrips :
    (List.replicate 7 (0 : Byte)).length ≤ 7 ∧ (List.replicate 6 (0 : Byte)).length ≤ 6 ∧ (4095#16).toNat ≤ 4095 := by
  decide

/-- CodecCapacity: a frame and an encoder's bytes. -/
theorem witness_CodecCapacity :
    exec (.decode [0x03, 1, 2, 3]) State.reset = .next (stateOf (exec (.decode [0x03, 1, 2, 3]) State.reset)) ∧
    EndsIn (.decode [0x03, 1, 2, 3]) State.reset (.frame (.sf 3 [1, 2, 3])) ∧
    exec (.encodeSf [1]) State.reset = .next (stateOf (exec (.encodeSf [1]) State.reset)) ∧
    EndsIn (.encodeSf [1]) State.reset (.bytes [0x01, 1]) ∧
    EndsIn (.encodeFf [1] 2) State.reset (.bytes [0x10, 0x02, 1]) ∧
    EndsIn (.encodeCf [1] 2) State.reset (.bytes [0x22, 1]) :=
  ⟨next_of_stopOf_none _ (by decide), by decide, next_of_stopOf_none _ (by decide), by decide, by decide, by decide⟩

/-- CodecIsPure: two states of unlike S and like parameters, with and without a fault. -/
theorem witness_CodecIsPure :
    State.reset.params = (filled [(1, [1])] [2]).params ∧ State.reset ≠ filled [(1, [1])] [2] ∧
    (∃ raw, Instr.decode [0x13] = .decode raw) ∧
    (stateOf (exec (.decode [0x13]) State.reset)).results = [.fault .shortFf] :=
  ⟨rfl, by decide, ⟨_, rfl⟩, by decide⟩

/-! ### Witnesses: the router -/

/-- TesterPresentAnswers and SessionControlAnswers: a padded request, one without a session type, one with. -/
theorem witness_ServiceAnswers :
    (([0x3E, 0, 0, 0, 0, 0, 0] : Bytes).length ≤ 7 ∧
      ([0x3E, 0, 0, 0, 0, 0, 0] : Bytes).take (7#4).toNat = 0x3E :: [0, 0, 0, 0, 0, 0]) ∧
    (([0x10] : Bytes).length ≤ 7 ∧ ([0x10] : Bytes).take (15#4).toNat = 0x10 :: []) ∧
    (([0x10, 0x03, 0x99] : Bytes).length ≤ 7 ∧ ([0x10, 0x03, 0x99] : Bytes).take (2#4).toNat = 0x10 :: 0x03 :: []) := by
  decide

/-- ReadDidAnswers, RequestRowsAnswer and RouterResponseLengths: 1 byte; an unknown identifier; values of 4 and of 5
bytes. -/
theorem witness_ReadDidAnswers :
    (([0x22, 0x01] : Bytes).length ≤ 7 ∧ ([0x22, 0x01] : Bytes).take (2#4).toNat = 0x22 :: [0x01] ∧
      ([0x01] : Bytes).length < 2) ∧
    (([0x22, 0x01, 0x02] : Bytes).length ≤ 7 ∧ ([0x22, 0x01, 0x02] : Bytes).take (3#4).toNat = 0x22 :: [0x01, 0x02] ∧
      ([0x01, 0x02] : Bytes) = 0x01 :: 0x02 :: []) ∧
    didRead State.reset.ecu.did (BitVec.ofNat 16 ((0x01#8).toNat * 256 + (0x02#8).toNat)) = none ∧
    (didRead (filled [(0x0102, [1, 2, 3, 4])] []).ecu.did (BitVec.ofNat 16 ((0x01#8).toNat * 256 + (0x02#8).toNat)) =
      some [1, 2, 3, 4] ∧ ([1, 2, 3, 4] : Bytes).length ≤ 4) ∧
    (didRead (filled [(0x0102, [1, 2, 3, 4, 5])] []).ecu.did
        (BitVec.ofNat 16 ((0x01#8).toNat * 256 + (0x02#8).toNat)) =
      some [1, 2, 3, 4, 5] ∧ 4 < ([1, 2, 3, 4, 5] : Bytes).length) := by decide

/-- DtcCountAnswers: the fullest store; DtcListAnswers: no code, one code, two codes. -/
theorem witness_DtcAnswers :
    (([0x19, 0x01] : Bytes).length ≤ 7 ∧ ([0x19, 0x01] : Bytes).take (2#4).toNat = 0x19 :: 0x01 :: []) ∧
    (([0x19, 0x02, 0xFF] : Bytes).length ≤ 7 ∧ ([0x19, 0x02, 0xFF] : Bytes).take (3#4).toNat = 0x19 :: 0x02 :: [0xFF]) ∧
    (filled [] (List.replicate 255 1)).ecu.dtc.length ≤ 255 ∧ (filled [] []).ecu.dtc = [] ∧
    (filled [] [0x123456]).ecu.dtc = [0x123456] ∧ 2 ≤ (filled [] [1, 2]).ecu.dtc.length :=
  ⟨by decide, by decide, show (List.replicate 255 (1 : Dtc)).length ≤ 255 from List.length_replicate.le, rfl, rfl,
    by decide⟩

/-- UnsupportedAnswers: no subfunction, another subfunction, an unrouted SID. -/
theorem witness_UnsupportedAnswers :
    (([0x19] : Bytes).length ≤ 7 ∧ ([0x19] : Bytes).take (1#4).toNat = 0x19 :: [] ∧
      (0x19 : Byte) = 0x19 ∧ ([] : Bytes).head? ≠ some 0x01 ∧ ([] : Bytes).head? ≠ some 0x02) ∧
    (([0x19, 0x03] : Bytes).take (2#4).toNat = 0x19 :: [0x03] ∧ ([0x03] : Bytes).head? ≠ some 0x01 ∧
      ([0x03] : Bytes).head? ≠ some 0x02) ∧
    (([0x11] : Bytes).take (1#4).toNat = 0x11 :: [] ∧
      (0x11 : Byte) ≠ 0x3E ∧ (0x11 : Byte) ≠ 0x10 ∧ (0x11 : Byte) ≠ 0x22 ∧ (0x11 : Byte) ≠ 0x19) := by decide

/-- RouterFootprint: two states that agree in the store a service reads and differ elsewhere. -/
theorem witness_RouterFootprint :
    ((0x22 : Byte) = 0x22 → (filled [(1, [1])] [2]).ecu.did = (filled [(1, [1])] []).ecu.did) ∧
    ((0x22 : Byte) = 0x19 → (filled [(1, [1])] [2]).ecu.dtc = (filled [(1, [1])] []).ecu.dtc) ∧
    (filled [(1, [1])] [2]).ecu ≠ (filled [(1, [1])] []).ecu := by decide

/-- RouterResponseLengths: the clauses of the subfunctions and of an unrouted SID. -/
theorem witness_RouterResponseLengths :
    ([0x01] : Bytes).head? = some 0x01 ∧ ([0x02] : Bytes).head? = some 0x02 ∧ ([] : Bytes).head? ≠ some 0x01 ∧
    ([] : Bytes).head? ≠ some 0x02 ∧ ([0x01, 0x02] : Bytes) = 0x01 :: 0x02 :: [] ∧
    ((0x00 : Byte) ≠ 0x3E ∧ (0x00 : Byte) ≠ 0x10 ∧ (0x00 : Byte) ≠ 0x22 ∧ (0x00 : Byte) ≠ 0x19) := by decide

/-! ### Witnesses: the session -/

/-- HandleFrameRunsRoutedRow: a padded frame, and a frame shorter than SF_DL. -/
theorem witness_HandleFrameRunsRoutedRow :
    (([0x3E, 0, 0, 0, 0, 0, 0] : Bytes).length ≤ 7 ∧ ([0x3E, 0, 0, 0, 0, 0, 0] : Bytes).take (1#4).toNat = 0x3E :: []) ∧
    (([0x10, 0x03] : Bytes).length ≤ 7 ∧ ([0x10, 0x03] : Bytes).take (15#4).toNat = 0x10 :: [0x03]) := by decide

/-- TransportErrorAnswers: both settings, and each clause at an end of its range. -/
theorem witness_TransportErrorAnswers :
    State.reset.params.wrapTransportErrors = false ∧ wrapping.params.wrapTransportErrors = true ∧
    (List.replicate 7 (0 : Byte)).length ≤ 7 ∧ 3 ≤ (0x30#8).toNat / 16 ∧ 3 ≤ (0xFF#8).toNat / 16 ∧
    (0x20#8).toNat / 16 = 2 ∧ ((0x10#8).toNat / 16 = 1 ∧ ([0x14] : Bytes) ≠ []) ∧ (0x00#8).toNat = 0 ∧
    ((0x0F#8).toNat / 16 = 0 ∧ ([] : Bytes) = []) := by decide

/-- TransportErrorAnswers: its function of the code, under the default setting. -/
theorem witness_TransportErrorAnswers_te :
    ∃ te : Byte → Bytes, te = (fun nrc =>
      if State.reset.params.wrapTransportErrors then [0x03, 0x7F, 0x00, nrc] else [0x7F, 0x00, nrc]) ∧
      te 0x12 = [0x7F, 0x00, 0x12] := ⟨_, rfl, by decide⟩

/-- ResponseOverflowExactly: a request for the list, over two codes. -/
theorem witness_ResponseOverflowExactly :
    ([0x19, 0x02] : Bytes).length ≤ 7 ∧ ([0x19, 0x02] : Bytes).take (2#4).toNat = 0x19 :: [0x02] ∧
    2 ≤ (filled [] [1, 2]).ecu.dtc.length ∧ ([0x22, 0x01, 0x02] : Bytes).take (3#4).toNat = 0x22 :: [0x01, 0x02] ∧
    didRead (filled [(0x0102, [1, 2, 3, 4, 5])] []).ecu.did
      (BitVec.ofNat 16 ((0x01#8).toNat * 256 + (0x02#8).toNat)) = some [1, 2, 3, 4, 5] := by decide

/-- HandleFrameTotality: the longest and the shortest frame. -/
theorem witness_HandleFrameTotality : (List.replicate 8 (0 : Byte)).length ≤ 8 ∧ ([] : Bytes).length ≤ 8 := by decide

/-- SetDidResult: a value of exactly DID_VAL_MAX bytes, another key, and one byte too many. -/
theorem witness_SetDidResult :
    (List.replicate 6 (0 : Byte)).length ≤ (withParams small).params.didValMax ∧
    (0x0101 : Did) ≠ 0x0102 ∧
    (withParams small).params.didValMax < (List.replicate 7 (0 : Byte)).length := by decide

/-- IdempotentTransactions: a next state of each of the three. -/
theorem witness_IdempotentTransactions :
    (exec (.setDid 1 [1]) State.reset = .next (stateOf (exec (.setDid 1 [1]) State.reset)) ∧
      ([1] : Bytes).length ≤ State.reset.params.didValMax ∧ ([2, 3] : Bytes).length ≤ State.reset.params.didValMax) ∧
    exec .clearDtc (filled [] [1]) = .next (stateOf (exec .clearDtc (filled [] [1]))) ∧
    exec (.diagnosticSessionControl [3]) State.reset =
      .next (stateOf (exec (.diagnosticSessionControl [3]) State.reset)) :=
  ⟨⟨next_of_stopOf_none _ (by decide), by decide, by decide⟩, next_of_stopOf_none _ (by decide), next_of_stopOf_none _ (by decide)⟩

/-- AddDtcResult: one place left, and a full store. -/
theorem witness_AddDtcResult :
    (smallState [1] []).ecu.dtc.length ≠ (smallState [1] []).params.dtcCap ∧
    (smallState [1, 2] []).ecu.dtc.length = (smallState [1, 2] []).params.dtcCap := by decide

/-- ReadStatusResult: a latch bit, and the fullest store. -/
theorem witness_ReadStatusResult : 5 < 6 ∧ (filled [] (List.replicate 255 1)).ecu.dtc.length ≤ 255 :=
  ⟨by decide, show (List.replicate 255 (1 : Dtc)).length ≤ 255 from List.length_replicate.le⟩

/-- ReservedCommandsFault: each clause of the codes. -/
theorem witness_ReservedCommandsFault :
    (0x6#4).toNat = 6 ∧ (0x7#4).toNat = 7 ∧ 12 ≤ (0xC#4).toNat ∧ 12 ≤ (0xF#4).toNat := by decide

/-! ### Witnesses: the whole machine -/

/-- FaultChangesOnlyItsBit and FaultCauses: one transaction for each fault. -/
theorem witness_Faults :
    EndsIn (decodeTransaction (.command 0xB { bytes := List.replicate 9 0 })) State.reset (.fault .frameTooLong) ∧
    EndsIn (decodeTransaction (.command 0x1 { bytes := [0x1F] })) State.reset (.fault .shortFf) ∧
    EndsIn (decodeTransaction (.command 0x1 { bytes := [0x02, 0x19, 0x02] })) (filled [] [1, 2]) (.fault .respOverflow) ∧
    EndsIn (decodeTransaction (.command 0x2 { bytes := List.replicate 7 0 })) (smallState [] []) (.fault .didValueTooLong) ∧
    EndsIn (decodeTransaction (.command 0x3 { dtc := 1 })) (smallState [1, 2] []) (.fault .dtcFull) ∧
    EndsIn (decodeTransaction (.command 0xF {})) State.reset (.fault .badCmd) := by decide

/-- FaultChangesOnlyItsBit and FaultCauses: such a transaction gives a next state. -/
theorem witness_Faults_next :
    exec (decodeTransaction (.command 0x1 { bytes := [0x1F] })) State.reset =
      .next (stateOf (exec (decodeTransaction (.command 0x1 { bytes := [0x1F] })) State.reset)) :=
  next_of_stopOf_none _ (by decide)

/-- ErrorsChangeNothing and ErrorKindsByTransaction: each kind of error, in a next state. -/
theorem witness_Errors :
    (exec (.encodeSf (List.replicate 8 0)) State.reset = .next (stateOf (exec (.encodeSf (List.replicate 8 0)) State.reset)) ∧
      EndsIn (.encodeSf (List.replicate 8 0)) State.reset (.contractError .payloadTooLarge)) ∧
    (exec (.decode []) State.reset = .next (stateOf (exec (.decode []) State.reset)) ∧
      EndsIn (.decode []) State.reset (.decodeError .emptyFrame)) ∧
    (exec (.handleFrame []) State.reset = .next (stateOf (exec (.handleFrame []) State.reset)) ∧
      EndsIn (.handleFrame []) State.reset (.bytes [0x7F, 0x00, 0x12])) ∧
    (exec (.handleFrame [0x01, 0xFF]) State.reset = .next (stateOf (exec (.handleFrame [0x01, 0xFF]) State.reset)) ∧
      EndsIn (.handleFrame [0x01, 0xFF]) State.reset (.bytes [0x03, 0x7F, 0x00, 0x12])) :=
  ⟨⟨next_of_stopOf_none _ (by decide), by decide⟩, ⟨next_of_stopOf_none _ (by decide), by decide⟩,
    ⟨next_of_stopOf_none _ (by decide), by decide⟩, next_of_stopOf_none _ (by decide), by decide⟩

/-- OnlyResetClears: a fault bit and the session flag kept, and the flag set through HANDLE_FRAME. -/
theorem witness_OnlyResetClears :
    (exec .clearDtc { State.reset with ecu := { State.reset.ecu with sessionActive := true, fault := 0b000001 } } =
      .next (stateOf (exec .clearDtc
        { State.reset with ecu := { State.reset.ecu with sessionActive := true, fault := 0b000001 } })) ∧
      (∀ id, Instr.clearDtc ≠ .reset id) ∧ (0b000001#6).getLsbD 0 = true) ∧
    (exec (.handleFrame [0x01, 0x10]) State.reset = .next (stateOf (exec (.handleFrame [0x01, 0x10]) State.reset)) ∧
      State.reset.ecu.sessionActive = false ∧
      (stateOf (exec (.handleFrame [0x01, 0x10]) State.reset)).ecu.sessionActive = true) :=
  ⟨⟨next_of_stopOf_none _ (by decide), fun _ h => (by cases h), by decide⟩, next_of_stopOf_none _ (by decide), by decide, by decide⟩

/-- StoreWriters: each store changed. -/
theorem witness_StoreWriters :
    exec (.setDid 1 [1]) State.reset = .next (stateOf (exec (.setDid 1 [1]) State.reset)) ∧
    (stateOf (exec (.setDid 1 [1]) State.reset)).ecu.did ≠ State.reset.ecu.did ∧
    (stateOf (exec (.addDtc 1) State.reset)).ecu.dtc ≠ State.reset.ecu.dtc ∧
    (stateOf (exec (.reset [1]) State.reset)).ecu.ecuId ≠ State.reset.ecu.ecuId :=
  ⟨next_of_stopOf_none _ (by decide), by decide, by decide, by decide⟩

/-- ReadOnlyTransactions: one for each clause. -/
theorem witness_ReadOnlyTransactions :
    exec .readStatus State.reset = .next (stateOf (exec .readStatus State.reset)) ∧
    exec (.decode [0x13]) State.reset = .next (stateOf (exec (.decode [0x13]) State.reset)) ∧
    (decodeTransaction (.request 0x3E []) = .testerPresent [] ∧ (0x3E : Byte) ≠ 0x10) ∧
    (([0x22, 0x01, 0x02] : Bytes).length ≤ 7 ∧ ([0x22, 0x01, 0x02] : Bytes).take (3#4).toNat = 0x22 :: [0x01, 0x02] ∧
      Instr.handleFrame [0x03, 0x22, 0x01, 0x02] = .handleFrame (BitVec.ofNat 8 (3#4).toNat :: [0x22, 0x01, 0x02])) :=
  ⟨next_of_stopOf_none _ (by decide), next_of_stopOf_none _ (by decide), by decide, by decide⟩

/-- ConfigurationTransactionsFrame: a next state of each of the three. -/
theorem witness_ConfigurationTransactionsFrame :
    exec (.setDid 1 [1]) State.reset = .next (stateOf (exec (.setDid 1 [1]) State.reset)) ∧
    exec (.addDtc 1) State.reset = .next (stateOf (exec (.addDtc 1) State.reset)) ∧
    exec .clearDtc State.reset = .next (stateOf (exec .clearDtc State.reset)) :=
  ⟨next_of_stopOf_none _ (by decide), next_of_stopOf_none _ (by decide), next_of_stopOf_none _ (by decide)⟩

/-- WritesAreVisibleNext: a value of 4 bytes, and the last place of a store. -/
theorem witness_WritesAreVisibleNext :
    ([1, 2, 3, 4] : Bytes).length ≤ 4 ∧ ([1, 2, 3, 4] : Bytes).length ≤ State.reset.params.didValMax ∧
    (smallState [1] []).ecu.dtc.length < (smallState [1] []).params.dtcCap ∧ (smallState [1] []).params.dtcCap ≤ 255 := by
  decide

/-- SessionGatesNothing and EcuIdIsUnobserved: a transaction with its result. -/
theorem witness_Observations :
    Instr.handleFrame [0x01, 0x3E] ≠ .readStatus ∧
    exec (.handleFrame [0x01, 0x3E]) State.reset = .next (stateOf (exec (.handleFrame [0x01, 0x3E]) State.reset)) ∧
    EndsIn (.handleFrame [0x01, 0x3E]) State.reset (.bytes [0x01, 0x7E]) :=
  ⟨by decide, next_of_stopOf_none _ (by decide), by decide⟩

/-- EcuIdIsUnobserved: RESET, and an instruction that is not RESET. -/
theorem witness_EcuIdIsUnobserved :
    exec (.reset [1]) State.reset = .next (stateOf (exec (.reset [1]) State.reset)) ∧
    (∃ x, Instr.reset [1] = .reset x) ∧ ∀ x, Instr.readStatus ≠ .reset x :=
  ⟨next_of_stopOf_none _ (by decide), ⟨[1], rfl⟩, fun _ h => by cases h⟩

/-- StepKeepsInvariant: reset with a SET_DID to present. -/
theorem witness_StepKeepsInvariant :
    (presenting [.command 0x2 { did := 1, bytes := [1] }]).Inv ∧
    step (presenting [.command 0x2 { did := 1, bytes := [1] }]) =
      .next (stateOf (step (presenting [.command 0x2 { did := 1, bytes := [1] }]))) :=
  ⟨⟨by decide, by decide, by decide, by decide⟩, next_of_stopOf_none _ (by decide)⟩

end Sys2Proof.Tests
end

section
/-! PROOF. `ecu_id` is written by RESET alone and read by nothing (R41): every operation of the machine commutes with
replacing the identifier. -/

namespace Sys2Proof.Machine

/-- The state record with another identifier. -/
def Ecu.withId (id : EcuId) (e : Ecu) : Ecu := { e with ecuId := id }

/-- The state with another identifier in its record. -/
def State.withEcuId (id : EcuId) (s : State) : State := { s with ecu := s.ecu.withId id }

/-- A service's outcome with another identifier in its record; the response is the same. -/
def relabelOutcome (id : EcuId) (outcome : Ecu × Bytes) : Ecu × Bytes := (outcome.1.withId id, outcome.2)

section Relabel

variable (id : EcuId) (s : State) (e : Ecu)

@[simp] theorem withEcuId_params : (s.withEcuId id).params = s.params := rfl

theorem presentDecoded_withEcuId (d : Decoded) :
    presentDecoded d (s.withEcuId id) = (presentDecoded d s).withEcuId id := by
  cases d <;> rfl

theorem respond_withEcuId {outcome outcome' : Ecu × Bytes} (h : outcome' = relabelOutcome id outcome) :
    respond outcome' (s.withEcuId id) = (respond outcome s).withEcuId id := by
  subst h
  unfold respond
  rw [apply_ite (State.withEcuId id)]
  rfl

theorem serveReadDid_withId (sp : Bytes) :
    serveReadDid (e.withId id) sp = relabelOutcome id (serveReadDid e sp) := by
  match sp with
  | [] => rfl
  | [_] => rfl
  | _ :: _ :: _ => rfl

theorem dispatch_withId (sid : Byte) (sp : Bytes) :
    dispatch (e.withId id) sid sp = relabelOutcome id (dispatch e sid sp) := by
  unfold dispatch
  split_ifs
  · rfl
  · rfl
  · exact serveReadDid_withId id e sp
  all_goals rfl

theorem handlePayload_withEcuId (data : Bytes) :
    handlePayload data (s.withEcuId id) = (handlePayload data s).withEcuId id := by
  match data with
  | [] => rfl
  | sid :: sp => exact respond_withEcuId id s (dispatch_withId id s.ecu sid sp)

theorem handleDecoded_withEcuId (d : Decoded) :
    handleDecoded d (s.withEcuId id) = (handleDecoded d s).withEcuId id := by
  match d with
  | .fault _ => rfl
  | .error _ => rfl
  | .frame (.sf _ data) => exact handlePayload_withEcuId id s data
  | .frame (.ff _ _) => rfl
  | .frame (.cf _ _) => rfl
  | .frame .fc => rfl

/-- The outcome of a step with another identifier in its next state. -/
def relabelNext : Host.Outcome State Fault Refusal → Host.Outcome State Fault Refusal
  | .next t => .next (t.withEcuId id)
  | .fault r => .fault r
  | .refused r => .refused r

/-- An instruction other than RESET takes states that differ only in the identifier to states that differ only in
it. -/
theorem exec_withEcuId {i : Instr} (hi : isReset i = false) :
    exec i (s.withEcuId id) = relabelNext id (exec i s) := by
  cases i with
  | reset => simp [isReset] at hi
  | pciSf | pciFf | pciCf | pciFc | pciReserved4To7 | pciReserved8ToF | decode =>
    exact congrArg Host.Outcome.next (presentDecoded_withEcuId id s _)
  | testerPresent | diagnosticSessionControl | readDtcInformation01 | readDtcInformation02 | rdtciOther
  | sidUnsupported => exact congrArg Host.Outcome.next (respond_withEcuId id s rfl)
  | readDataByIdentifier sp =>
    exact congrArg Host.Outcome.next (respond_withEcuId id s (serveReadDid_withId id s.ecu sp))
  | handleFrame => exact congrArg Host.Outcome.next (handleDecoded_withEcuId id s _)
  | clearDtc | readStatus | reservedCmd6To7 | reservedCmdCToF => rfl
  | setDid | addDtc | encodeSf =>
    simp only [exec, execSetDid, execAddDtc, execEncodeSf, apply_ite (relabelNext id)]
    rfl
  | encodeFf chunk totalLength =>
    simp only [exec, execEncodeFf, withEcuId_params]
    split_ifs
    · rfl
    · cases fitChunk s.params.oversizePolicy Config.ffCap chunk <;> rfl
  | encodeCf chunk =>
    simp only [exec, execEncodeCf, withEcuId_params]
    cases fitChunk s.params.oversizePolicy Config.cfCap chunk <;> rfl

end Relabel

theorem isReset_eq_false {i : Instr} (h : ¬ ∃ x, i = .reset x) : isReset i = false := by
  unfold isReset
  split
  · exact absurd ⟨_, rfl⟩ h
  · rfl

/-- No effect but the reset writes the identifier. -/
theorem Effect.ecuId_eq {i : Instr} {s t : State} (h : Effect i s t) (hi : isReset i = false) :
    t.ecu.ecuId = s.ecu.ecuId := by
  cases h with
  | reset _ by_request => simp [by_request, isReset] at hi
  | none | fault | session | stored | appended | cleared => rfl

/-- Settles O58: RESET overwrites the record whatever its identifier was, and every other instruction keeps the
identifier and commutes with replacing it. -/
theorem ecuIdIsUnobserved : Obligations.EcuIdIsUnobserved := by
  intro i s t id h
  by_cases hreset : ∃ x, i = .reset x
  · obtain ⟨x, rfl⟩ := hreset
    cases h
    exact ⟨fun _ hx => Instr.reset.inj hx, fun hne => absurd rfl (hne x), x, rfl⟩
  · have hi : isReset i = false := isReset_eq_false hreset
    refine ⟨fun x hx => absurd ⟨x, hx⟩ hreset, fun _ => (exec_effect h).ecuId_eq hi, id, ?_⟩
    calc exec i (s.withEcuId id)
      _ = relabelNext id (exec i s) := exec_withEcuId id s hi
      _ = .next (t.withEcuId id) := by rw [h]; rfl

end Sys2Proof.Machine
end

section
/-! PROOF. The encoders of the Transport Codec (R121 to R123): what each one answers, as a function of its operands and
of OVERSIZE_POLICY alone. -/

namespace Sys2Proof.Machine

/-- The answer of ENCODE_SF (R121). -/
def sfAnswer (p : Bytes) : Result :=
  if 7 < p.length then .contractError .payloadTooLarge else .bytes (BitVec.ofNat 8 p.length :: p)

/-- The answer of a segment encoder, from the frame's first bytes and the chunk that OVERSIZE_POLICY leaves, if any. -/
def chunkAnswer (header : Bytes) : Option Bytes → Result
  | none => .contractError .chunkTooLarge
  | some chunk => .bytes (header ++ chunk)

/-- The answer of ENCODE_FF (R122): the length check comes before the chunk's. -/
def ffAnswer (policy : OversizePolicy) (c : Bytes) (L : BitVec 16) : Result :=
  if 4095 < L.toNat then .contractError .lengthOutOfRange
  else chunkAnswer [BitVec.ofNat 8 (16 + L.toNat / 256), BitVec.ofNat 8 (L.toNat % 256)] (fitChunk policy 6 c)

/-- The answer of ENCODE_CF (R123). -/
def cfAnswer (policy : OversizePolicy) (c : Bytes) (sn : BitVec 8) : Result :=
  chunkAnswer [BitVec.ofNat 8 (32 + sn.toNat % 16)] (fitChunk policy 7 c)

theorem ffAnswer_of_le (policy : OversizePolicy) (c : Bytes) {L : BitVec 16} (h : L.toNat ≤ 4095) :
    ffAnswer policy c L =
      chunkAnswer [BitVec.ofNat 8 (16 + L.toNat / 256), BitVec.ofNat 8 (L.toNat % 256)] (fitChunk policy 6 c) :=
  if_neg (Nat.not_lt.mpr h)

theorem exec_encodeSf (p : Bytes) (s : State) : exec (.encodeSf p) s = .next (s.after s.ecu (sfAnswer p)) := by
  by_cases h : 7 < p.length
  · rw [sfAnswer, if_pos h]; exact if_pos h
  · rw [sfAnswer, if_neg h, ← sfBytes_eq]; exact if_neg h

theorem exec_encodeFf (c : Bytes) (L : BitVec 16) (s : State) :
    exec (.encodeFf c L) s = .next (s.after s.ecu (ffAnswer s.params.oversizePolicy c L)) := by
  by_cases h : 4095 < L.toNat
  · rw [ffAnswer, if_pos h]; exact if_pos h
  · rw [ffAnswer, if_neg h]
    refine (if_neg h).trans ?_
    simp only [Config.ffCap, present_eq_after]
    cases fitChunk s.params.oversizePolicy 6 c with
    | none => rfl
    | some d => simp only [chunkAnswer, ffBytes_eq L d (Nat.not_lt.mp h), List.cons_append, List.nil_append]

theorem exec_encodeCf (c : Bytes) (sn : BitVec 8) (s : State) :
    exec (.encodeCf c sn) s = .next (s.after s.ecu (cfAnswer s.params.oversizePolicy c sn)) := by
  simp only [exec, execEncodeCf, cfAnswer, Config.cfCap, present_eq_after]
  cases fitChunk s.params.oversizePolicy 7 c with
  | none => rfl
  | some d => simp only [chunkAnswer, cfBytes_eq, List.cons_append, List.nil_append]

section Fits

variable {c : Bytes} (s : State)

theorem exec_encodeSf_of_le {p : Bytes} (h : p.length ≤ 7) :
    exec (.encodeSf p) s = .next (s.after s.ecu (.bytes (BitVec.ofNat 8 p.length :: p))) := by
  rw [exec_encodeSf, sfAnswer, if_neg (Nat.not_lt.mpr h)]

theorem exec_encodeFf_of_le {L : BitVec 16} (hL : L.toNat ≤ 4095) (hc : c.length ≤ 6) :
    exec (.encodeFf c L) s = .next (s.after s.ecu
      (.bytes (BitVec.ofNat 8 (16 + L.toNat / 256) :: BitVec.ofNat 8 (L.toNat % 256) :: c))) := by
  rw [exec_encodeFf, ffAnswer_of_le _ _ hL, fitChunk_of_le _ hc]; rfl

theorem exec_encodeCf_of_le (sn : BitVec 8) (hc : c.length ≤ 7) : exec (.encodeCf c sn) s =
    .next (s.after s.ecu (.bytes (BitVec.ofNat 8 (32 + sn.toNat % 16) :: c))) := by
  rw [exec_encodeCf, cfAnswer, fitChunk_of_le _ hc]; rfl

end Fits

/-- Settles O12: the answer's two cases are the two of R121. -/
theorem encodeSfResult : Obligations.EncodeSfResult := by
  refine ⟨fun _ => rfl, fun p s => ⟨exec_encodeSf_of_le s, fun h => ?_⟩⟩
  rw [exec_encodeSf, sfAnswer, if_pos h]

/-- Settles O13: the length check first, then the three outcomes of fitting the chunk. -/
theorem encodeFfResult : Obligations.EncodeFfResult := by
  refine ⟨fun _ => rfl, fun c L s => ⟨fun hL => ?_, exec_encodeFf_of_le s, fun hL hc hp => ?_, fun hL hc hp => ?_⟩⟩
  · rw [exec_encodeFf, ffAnswer, if_pos hL]
  · rw [exec_encodeFf, ffAnswer_of_le _ _ hL, hp, fitChunk_contractError hc]; rfl
  · rw [exec_encodeFf, ffAnswer_of_le _ _ hL, hp, fitChunk_truncate hc]; rfl

/-- Settles O14: the three outcomes of fitting the chunk; no case is about the sequence number. -/
theorem encodeCfResult : Obligations.EncodeCfResult := by
  refine ⟨fun _ => rfl, fun c sn s => ⟨exec_encodeCf_of_le s sn, fun hc hp => ?_, fun hc hp => ?_⟩⟩
  · rw [exec_encodeCf, cfAnswer, hp, fitChunk_contractError hc]; rfl
  · rw [exec_encodeCf, cfAnswer, hp, fitChunk_truncate hc]; rfl

end Sys2Proof.Machine
end

section
/-! PROOF. DECODE (R124 to R128): one rule per outcome of the transport decode and per frame kind, the obligations that
spell the kinds out, and the round trips with the encoders (R129, R130). -/

namespace Sys2Proof.Machine

section DecodeOutcomes

variable {raw : Bytes} (s : State)

theorem exec_decode_frame {f : Frame} (h : codecDecode raw = .frame f) :
    exec (.decode raw) s = .next (s.after s.ecu (.frame f)) := by
  rw [← presentDecoded_frame, ← h]; rfl

theorem exec_decode_error {e : DecodeErr} (h : codecDecode raw = .error e) :
    exec (.decode raw) s = .next (s.after s.ecu (.decodeError e)) := by
  rw [← presentDecoded_error, ← h]; rfl

theorem exec_decode_fault {c : FaultCode} (h : codecDecode raw = .fault c) :
    exec (.decode raw) s = .next (s.faulted c) := by
  rw [← presentDecoded_fault, ← h]; rfl

end DecodeOutcomes

section DecodeKinds

variable {b : Byte} {rest : Bytes} (s : State)

theorem exec_decode_sf (h : rest.length ≤ 7) (hb : b.toNat / 16 = 0) : exec (.decode (b :: rest)) s =
    .next (s.after s.ecu (.frame (.sf (BitVec.ofNat 4 b.toNat) (rest.take (b.toNat % 16))))) := by
  rw [exec_decode_frame s (codecDecode_sf h hb), lowNibble_eq_ofNat]

theorem exec_decode_ff (lo : Byte) {chunk : Bytes} (h : chunk.length ≤ 6) (hb : b.toNat / 16 = 1) :
    exec (.decode (b :: lo :: chunk)) s =
      .next (s.after s.ecu (.frame (.ff (BitVec.ofNat 12 (b.toNat % 16 * 256 + lo.toNat)) chunk))) := by
  have hd := codecDecode_ff (rest := lo :: chunk) (Nat.succ_le_succ h) hb
  rw [decodeFf_cons, lowNibble_toNat, List.take_of_length_le h] at hd
  exact exec_decode_frame s hd

theorem exec_decode_shortFf (hb : b.toNat / 16 = 1) : exec (.decode [b]) s = .next (s.faulted .shortFf) :=
  exec_decode_fault s (codecDecode_ff (Nat.zero_le 7) hb)

theorem exec_decode_cf (h : rest.length ≤ 7) (hb : b.toNat / 16 = 2) :
    exec (.decode (b :: rest)) s = .next (s.after s.ecu (.frame (.cf (BitVec.ofNat 4 b.toNat) rest))) := by
  rw [exec_decode_frame s (codecDecode_cf h hb), lowNibble_eq_ofNat]

theorem exec_decode_unknown (h : rest.length ≤ 7) (hb : 3 ≤ b.toNat / 16) :
    exec (.decode (b :: rest)) s = .next (s.after s.ecu (.decodeError .unknownFrameKind)) :=
  exec_decode_error s (codecDecode_unknown h hb)

end DecodeKinds

/-- Settles O15: length, emptiness, then the five cases of the kind nibble. -/
theorem decodeResult : Obligations.DecodeResult := by
  refine ⟨fun _ => rfl, fun raw s h => exec_decode_fault s (codecDecode_of_lt h),
    fun s => exec_decode_error s codecDecode_nil, fun b rest s h => ⟨exec_decode_sf s h, ?shortFf, ?ff,
      exec_decode_cf s h, exec_decode_unknown s h⟩⟩
  case shortFf =>
    rintro hb rfl
    exact exec_decode_shortFf s hb
  case ff =>
    rintro lo chunk hb rfl
    exact exec_decode_ff s lo (Nat.le_of_succ_le_succ h) hb

/-- A byte put together from a high part and a low nibble is their sum: nothing wraps. -/
theorem toNat_ofNat_add_nibble {high : Nat} (h : high ≤ 240) (n : BitVec 4) :
    (BitVec.ofNat 8 (high + n.toNat)).toNat = high + n.toNat := by
  have := n.isLt
  rw [BitVec.toNat_ofNat]
  omega

/-- Settles O16: byte 0 is SF_DL itself. -/
theorem decodeSingleFrame : Obligations.DecodeSingleFrame := by
  intro n rest s h
  have hn := n.isLt
  have hb : (BitVec.ofNat 8 n.toNat).toNat = n.toNat := by simpa using toNat_ofNat_add_nibble (Nat.zero_le 240) n
  refine ⟨?_, (List.length_take_le' _ _).trans h, fun hshort => List.take_of_length_le hshort.le⟩
  rw [exec_decode_sf s h (by omega), hb, Nat.mod_eq_of_lt hn, BitVec.ofNat_toNat, BitVec.setWidth_eq]

/-- Settles O17: byte 0 is 16 plus the high nibble of the length. -/
theorem decodeFirstFrame : Obligations.DecodeFirstFrame := by
  have hb (hi : BitVec 4) := toNat_ofNat_add_nibble (by decide : 16 ≤ 240) hi
  refine ⟨fun hi lo chunk s h => ?_, fun hi s => exec_decode_shortFf s ?_⟩
  · have := hi.isLt
    rw [exec_decode_ff s lo h (by rw [hb]; omega), hb, Nat.add_mod_left, Nat.mod_eq_of_lt hi.isLt]
  · have := hi.isLt
    rw [hb]; omega

/-- Settles O18: byte 0 is 32 plus the sequence number. -/
theorem decodeConsecutiveFrame : Obligations.DecodeConsecutiveFrame := by
  intro sn rest s h
  have hsn := sn.isLt
  have hb := toNat_ofNat_add_nibble (by decide : 32 ≤ 240) sn
  have hnibble : BitVec.ofNat 4 (32 + sn.toNat) = sn := by
    apply BitVec.eq_of_toNat_eq
    rw [BitVec.toNat_ofNat]
    omega
  rw [exec_decode_cf s h (by omega), hb, hnibble]

/-- Settles O22: byte 0 is the payload's length, so DECODE takes back the whole payload. -/
theorem singleFrameRoundTrip : Obligations.SingleFrameRoundTrip := by
  intro p s u h
  refine ⟨_, exec_encodeSf_of_le s h, ?_⟩
  have hb : (BitVec.ofNat 8 p.length).toNat = p.length := by rw [BitVec.toNat_ofNat]; omega
  rw [exec_decode_sf u h (by omega), hb, Nat.mod_eq_of_lt (by omega), List.take_length]

/-- Settles O23: the FirstFrame's two length fields recombine to L, and a ConsecutiveFrame's low nibble is the sequence
number modulo 16. -/
theorem segmentRoundTrips : Obligations.SegmentRoundTrips := by
  refine ⟨fun c L s u hc hL => ⟨_, exec_encodeFf_of_le s hL hc, ?ff⟩,
    fun c sn s u hc => ⟨_, exec_encodeCf_of_le s sn hc, ?cf⟩⟩
  case ff =>
    have hb : (BitVec.ofNat 8 (16 + L.toNat / 256)).toNat = 16 + L.toNat / 256 := by rw [BitVec.toNat_ofNat]; omega
    have hlo : (BitVec.ofNat 8 (L.toNat % 256)).toNat = L.toNat % 256 := by rw [BitVec.toNat_ofNat]; omega
    have hjoin : (16 + L.toNat / 256) % 16 * 256 + L.toNat % 256 = L.toNat := by omega
    rw [exec_decode_ff u _ hc (by omega), hb, hlo, hjoin]
  case cf =>
    have hb : (BitVec.ofNat 8 (32 + sn.toNat % 16)).toNat = 32 + sn.toNat % 16 := by rw [BitVec.toNat_ofNat]; omega
    have hnibble : BitVec.ofNat 4 (32 + sn.toNat % 16) = BitVec.ofNat 4 (sn.toNat % 16) := by
      apply BitVec.eq_of_toNat_eq
      simp only [BitVec.toNat_ofNat]
      omega
    rw [exec_decode_cf u hc (by omega), hb, hnibble]

end Sys2Proof.Machine
end

section
/-! PROOF. What holds of every codec result: frames and encoder outputs keep their capacities (R131), `Frame.FC` is never
produced (R128), and no component of S is read (R120). -/

namespace Sys2Proof.Machine

/-- The source's capacity invariant (R131), which no FlowControl frame meets since none is produced (R128). -/
def Frame.withinCapacity : Frame → Prop
  | .sf _ data => data.length ≤ 7
  | .ff _ data => data.length ≤ 6
  | .cf _ data => data.length ≤ 7
  | .fc => False

section Capacity

variable {f : Frame} {rest : Bytes}

theorem decodeFf_withinCapacity {hi : BitVec 4} (h : decodeFf hi rest = .frame f) : f.withinCapacity := by
  cases rest with
  | nil => cases h
  | cons lo after =>
    rw [decodeFf_cons] at h
    cases h
    exact List.length_take_le 6 after

theorem codecDecode_withinCapacity {raw : Bytes} (h : codecDecode raw = .frame f) : f.withinCapacity := by
  rcases Nat.lt_or_ge 8 raw.length with hlong | hfits
  · rw [codecDecode_of_lt hlong] at h; cases h
  · cases raw with
    | nil => cases h
    | cons b rest =>
      have hrest : rest.length ≤ 7 := Nat.le_of_succ_le_succ hfits
      rw [codecDecode_cons hrest] at h
      split_ifs at h
      · cases h; exact (List.length_take_le' _ _).trans hrest
      · exact decodeFf_withinCapacity h
      · cases h; exact hrest

theorem lengthChecked_eq_frame {d : Decoded} (h : lengthChecked rest d = .frame f) :
    rest.length ≤ 7 ∧ d = .frame f := by
  rcases Nat.lt_or_ge 7 rest.length with hlong | hfits
  · rw [lengthChecked_of_lt d hlong] at h; cases h
  · exact ⟨hfits, lengthChecked_of_le d hfits ▸ h⟩

variable {s : State}

theorem presentDecoded_results_frame {d : Decoded} (h : (presentDecoded d s).results = s.results ++ [.frame f]) :
    d = .frame f := by
  cases d with
  | frame g => simpa [presentDecoded_frame] using h
  | error e => simp [presentDecoded_error] at h
  | fault c => simp [presentDecoded_fault, faulted_eq_after] at h

theorem respond_results_ne_frame (outcome : Ecu × Bytes) : (respond outcome s).results ≠ s.results ++ [.frame f] := by
  rcases Nat.lt_or_ge 7 outcome.2.length with h | h
  · simp [respond_of_lt s h, faulted_eq_after]
  · simp [respond_of_le s h]

theorem handleDecoded_results_ne_frame (d : Decoded) : (handleDecoded d s).results ≠ s.results ++ [.frame f] := by
  match d with
  | .frame (.sf _ (_ :: _)) => exact respond_results_ne_frame _
  | .frame (.sf _ []) | .frame (.ff _ _) | .frame (.cf _ _) | .frame .fc | .error _ | .fault _ =>
    simp [handleDecoded, handlePayload, crcStage]

/-- The answer of an encoder: refused, or a frame of at most 8 bytes. -/
inductive EncoderAnswer : Result → Prop where
  | refused (e : ContractErr) : EncoderAnswer (.contractError e)
  | encoded (b : Bytes) (fits : b.length ≤ 8) : EncoderAnswer (.bytes b)

theorem sfAnswer_encoderAnswer (p : Bytes) : EncoderAnswer (sfAnswer p) := by
  unfold sfAnswer
  split_ifs with h
  · exact .refused _
  · exact .encoded _ (by rw [List.length_cons]; omega)

theorem chunkAnswer_encoderAnswer {header : Bytes} {cap : Nat} (policy : OversizePolicy) (c : Bytes)
    (h : header.length + cap ≤ 8) : EncoderAnswer (chunkAnswer header (fitChunk policy cap c)) := by
  cases hfit : fitChunk policy cap c with
  | none => exact .refused _
  | some d =>
    have := fitChunk_length hfit
    exact .encoded _ (by rw [List.length_append]; omega)

theorem ffAnswer_encoderAnswer (policy : OversizePolicy) (c : Bytes) (L : BitVec 16) :
    EncoderAnswer (ffAnswer policy c L) := by
  unfold ffAnswer
  split_ifs
  · exact .refused _
  · exact chunkAnswer_encoderAnswer policy c le_rfl

theorem cfAnswer_encoderAnswer (policy : OversizePolicy) (c : Bytes) (sn : BitVec 8) :
    EncoderAnswer (cfAnswer policy c sn) :=
  chunkAnswer_encoderAnswer policy c le_rfl

theorem EncoderAnswer.ne_frame {r : Result} (h : EncoderAnswer r) : r ≠ .frame f := by
  cases h <;> simp

theorem EncoderAnswer.ne_fault {r : Result} (h : EncoderAnswer r) (c : FaultCode) : r ≠ .fault c := by
  cases h <;> simp

theorem EncoderAnswer.length_le {b : Bytes} (h : EncoderAnswer (.bytes b)) : b.length ≤ 8 := by
  cases h with
  | encoded _ fits => exact fits

/-- The recorded result of an encoder is the encoder's answer. -/
theorem encoderAnswer_of_results {o : Host.Outcome State Fault Refusal} {t : State} {e : Ecu} {r r' : Result}
    (ho : o = .next (s.after e r)) (hr : EncoderAnswer r) (h : o = .next t) (ht : t.results = s.results ++ [r']) :
    EncoderAnswer r' := by
  rw [ho] at h
  exact result_unique (Host.Outcome.next.inj h) ht ▸ hr

end Capacity

/-- A frame is the result of a decode: DECODE's, or the length-checked one of a PCI row; no other instruction ends in
one. -/
theorem exec_frame_withinCapacity {i : Instr} {s t : State} {f : Frame} (h : exec i s = .next t)
    (hf : t.results = s.results ++ [.frame f]) : f.withinCapacity := by
  cases i with
  | decode raw => cases h; exact codecDecode_withinCapacity (presentDecoded_results_frame hf)
  | pciSf sfDl rest =>
    cases h
    obtain ⟨hrest, hd⟩ := lengthChecked_eq_frame (presentDecoded_results_frame hf)
    cases hd
    exact (List.length_take_le' _ _).trans hrest
  | pciFf hi rest =>
    cases h
    exact decodeFf_withinCapacity (lengthChecked_eq_frame (presentDecoded_results_frame hf)).2
  | pciCf sn rest =>
    cases h
    obtain ⟨hrest, hd⟩ := lengthChecked_eq_frame (presentDecoded_results_frame hf)
    cases hd
    exact hrest
  | pciFc | pciReserved4To7 | pciReserved8ToF =>
    cases h
    cases (lengthChecked_eq_frame (presentDecoded_results_frame hf)).2
  | testerPresent | diagnosticSessionControl | readDataByIdentifier | readDtcInformation01 | readDtcInformation02
  | rdtciOther | sidUnsupported =>
    cases h
    exact absurd hf (respond_results_ne_frame _)
  | handleFrame => cases h; exact absurd hf (handleDecoded_results_ne_frame _)
  | encodeSf p =>
    exact absurd rfl (encoderAnswer_of_results (exec_encodeSf p s) (sfAnswer_encoderAnswer p) h hf).ne_frame
  | encodeFf c L =>
    exact absurd rfl (encoderAnswer_of_results (exec_encodeFf c L s) (ffAnswer_encoderAnswer _ c L) h hf).ne_frame
  | encodeCf c sn =>
    exact absurd rfl (encoderAnswer_of_results (exec_encodeCf c sn s) (cfAnswer_encoderAnswer _ c sn) h hf).ne_frame
  | setDid | addDtc =>
    simp only [exec, execSetDid, execAddDtc] at h
    split_ifs at h <;> cases h <;> simp at hf
  | reset => rw [exec_reset] at h; cases h; simp at hf
  | clearDtc | readStatus | reservedCmd6To7 | reservedCmdCToF => cases h; simp at hf

/-- Settles O19: the rule of the unknown kinds; a FlowControl frame would break the capacity invariant. -/
theorem decodeUnknownKind : Obligations.DecodeUnknownKind :=
  ⟨fun _ _ s h hb => exec_decode_unknown s h hb, fun _ _ _ h hf => exec_frame_withinCapacity h hf⟩

/-- Settles O24, from the capacity invariant of every frame and the answers of the three encoders. -/
theorem codecCapacity : Obligations.CodecCapacity := by
  refine ⟨fun i s t f h hf => ?frames, fun s t b => ⟨fun p h ht => ?_, fun c L h ht => ?_, fun c sn h ht => ?_⟩⟩
  case frames =>
    have hcap := exec_frame_withinCapacity h hf
    cases f <;> exact hcap
  · exact (encoderAnswer_of_results (exec_encodeSf p s) (sfAnswer_encoderAnswer p) h ht).length_le
  · exact (encoderAnswer_of_results (exec_encodeFf c L s) (ffAnswer_encoderAnswer _ c L) h ht).length_le
  · exact (encoderAnswer_of_results (exec_encodeCf c sn s) (cfAnswer_encoderAnswer _ c sn) h ht).length_le

/-- Two runs of `i`, from `s` and from `u`, end in one result and write S alike: nothing, or the fault bit of a
DECODE. -/
def RunsAlike (i : Instr) (s u : State) : Prop :=
  ∃ r es eu, exec i s = .next (s.after es r) ∧ exec i u = .next (u.after eu r) ∧
    ((∀ c, r ≠ .fault c) → es = s.ecu ∧ eu = u.ecu) ∧
    (∀ c, r = .fault c → (∃ raw, i = .decode raw) ∧ s.after es r = s.faulted c ∧ u.after eu r = u.faulted c)

theorem runsAlike_of_no_fault {i : Instr} {s u : State} {r : Result} (hs : exec i s = .next (s.after s.ecu r))
    (hu : exec i u = .next (u.after u.ecu r)) (hr : ∀ c, r ≠ .fault c) : RunsAlike i s u :=
  ⟨r, s.ecu, u.ecu, hs, hu, fun _ => ⟨rfl, rfl⟩, fun c hc => absurd hc (hr c)⟩

theorem runsAlike_decode (raw : Bytes) (s u : State) : RunsAlike (.decode raw) s u := by
  cases hd : codecDecode raw with
  | frame f => exact runsAlike_of_no_fault (exec_decode_frame s hd) (exec_decode_frame u hd) (by simp)
  | error e => exact runsAlike_of_no_fault (exec_decode_error s hd) (exec_decode_error u hd) (by simp)
  | fault c =>
    refine ⟨.fault c, _, _, exec_decode_fault s hd, exec_decode_fault u hd, fun hr => absurd rfl (hr c), ?_⟩
    rintro _ ⟨⟩
    exact ⟨⟨raw, rfl⟩, rfl, rfl⟩

/-- Settles O25: an encoder's answer is a function of its operands and OVERSIZE_POLICY, and DECODE's outcome one of the
raw frame. -/
theorem codecIsPure : Obligations.CodecIsPure := by
  rintro i s u (⟨p, rfl⟩ | ⟨c, L, rfl⟩ | ⟨c, sn, rfl⟩ | ⟨raw, rfl⟩) hparams
  · exact runsAlike_of_no_fault (exec_encodeSf p s) (exec_encodeSf p u) (sfAnswer_encoderAnswer p).ne_fault
  · exact runsAlike_of_no_fault (exec_encodeFf c L s) (hparams ▸ exec_encodeFf c L u)
      (ffAnswer_encoderAnswer _ c L).ne_fault
  · exact runsAlike_of_no_fault (exec_encodeCf c sn s) (hparams ▸ exec_encodeCf c sn u)
      (cfAnswer_encoderAnswer _ c sn).ne_fault
  · exact runsAlike_decode raw s u

end Sys2Proof.Machine
end

section
/-! PROOF. The Service Dispatcher (R151 to R165): the list of what the router answers, HANDLE_FRAME of a SingleFrame
that carries a request, and the obligations of the single services and of the router as a whole. -/

namespace Sys2Proof.Machine

section Router

variable (e : Ecu) (sp : Bytes)

theorem dispatch_readDid_short (h : sp.length < 2) : dispatch e 0x22 sp = (e, [0x7F, 0x00, 0x13]) := by
  rw [dispatch_readDid, serveReadDid_short e h]

theorem dispatch_readDid_cons (hi lo : Byte) (ignored : Bytes) :
    dispatch e 0x22 (hi :: lo :: ignored) = (e, 0x62 :: hi :: lo ::
      (didRead e.did (BitVec.ofNat 16 (hi.toNat * 256 + lo.toNat))).getD [0x00]) := by
  rw [dispatch_readDid, serveReadDid_cons]

variable {e} in
theorem dispatch_readDid_unknown {hi lo : Byte} (ignored : Bytes)
    (h : didRead e.did (BitVec.ofNat 16 (hi.toNat * 256 + lo.toNat)) = none) :
    dispatch e 0x22 (hi :: lo :: ignored) = (e, [0x62, hi, lo, 0x00]) := by
  rw [dispatch_readDid_cons, h, Option.getD_none]

variable {e} in
theorem dispatch_readDid_stored {hi lo : Byte} (ignored : Bytes) {v : Bytes}
    (h : didRead e.did (BitVec.ofNat 16 (hi.toNat * 256 + lo.toNat)) = some v) :
    dispatch e 0x22 (hi :: lo :: ignored) = (e, 0x62 :: hi :: lo :: v) := by
  rw [dispatch_readDid_cons, h, Option.getD_some]

/-- The list response, each stored code as three big-endian bytes and a zero status byte (R67, R160). -/
theorem dispatch_dtcList_records (rest : Bytes) :
    dispatch e 0x19 (0x02 :: rest) = (e, 0x59 :: 0x02 :: e.dtc.flatMap fun c =>
      [BitVec.ofNat 8 (c.toNat / 65536), BitVec.ofNat 8 (c.toNat / 256), BitVec.ofNat 8 c.toNat, 0x00]) := by
  rw [dispatch_dtcList, serveDtcList, dtcRecords_eq]; rfl

/-- The list response's length (R165). -/
theorem dispatch_dtcList_length (rest : Bytes) :
    (dispatch e 0x19 (0x02 :: rest)).2.length = 2 + 4 * e.dtc.length := by
  rw [dispatch_dtcList, serveDtcList, List.length_append, dtcRecords_length]; rfl

/-- Every answer of the router: one case per service and per way it can end. -/
inductive Routed (e : Ecu) : Byte → Bytes → Ecu × Bytes → Prop where
  | testerPresent (sp : Bytes) : Routed e 0x3E sp (e, [0x7E])
  | sessionControl (sp : Bytes) : Routed e 0x10 sp ({ e with sessionActive := true }, [0x50, sessionType sp])
  | shortReadDid (sp : Bytes) (short : sp.length < 2) : Routed e 0x22 sp (e, [0x7F, 0x00, 0x13])
  | readDid (hi lo : Byte) (ignored : Bytes) : Routed e 0x22 (hi :: lo :: ignored)
      (e, 0x62 :: hi :: lo :: (didRead e.did (BitVec.ofNat 16 (hi.toNat * 256 + lo.toNat))).getD [0x00])
  | dtcCount (rest : Bytes) : Routed e 0x19 (0x01 :: rest) (serveDtcCount e)
  | dtcList (rest : Bytes) : Routed e 0x19 (0x02 :: rest) (serveDtcList e)
  | otherSubfunction (sp : Bytes) (notCount : sp.head? ≠ some 0x01) (notList : sp.head? ≠ some 0x02) :
      Routed e 0x19 sp (e, [0x7F, 0x00, 0x12])
  | unsupported (sid : Byte) (sp : Bytes) (h3E : sid ≠ 0x3E) (h10 : sid ≠ 0x10) (h22 : sid ≠ 0x22)
      (h19 : sid ≠ 0x19) : Routed e sid sp (e, [0x7F, 0x00, 0x12])

theorem routed_readDid : Routed e 0x22 sp (dispatch e 0x22 sp) := by
  match sp with
  | [] | [_] => exact .shortReadDid _ (by simp)
  | hi :: lo :: ignored => rw [dispatch_readDid_cons]; exact .readDid hi lo ignored

theorem routed_dtcInformation : Routed e 0x19 sp (dispatch e 0x19 sp) := by
  by_cases h1 : sp.head? = some 0x01
  · obtain ⟨rest, rfl⟩ := List.head?_eq_some_iff.mp h1
    exact .dtcCount rest
  by_cases h2 : sp.head? = some 0x02
  · obtain ⟨rest, rfl⟩ := List.head?_eq_some_iff.mp h2
    exact .dtcList rest
  rw [dispatch_otherSubfunction e sp h1 h2]
  exact .otherSubfunction sp h1 h2

/-- Whatever the router answers is on the list. -/
theorem dispatch_routed (e : Ecu) (sid : Byte) (sp : Bytes) : Routed e sid sp (dispatch e sid sp) := by
  by_cases h3E : sid = 0x3E
  · subst h3E; exact .testerPresent sp
  by_cases h10 : sid = 0x10
  · subst h10; exact .sessionControl sp
  by_cases h22 : sid = 0x22
  · subst h22; exact routed_readDid e sp
  by_cases h19 : sid = 0x19
  · subst h19; exact routed_dtcInformation e sp
  rw [dispatch_unsupported e sp h3E h10 h22 h19]
  exact .unsupported sid sp h3E h10 h22 h19

variable {e sp} {sid : Byte} {outcome : Ecu × Bytes}

/-- A response is positive for its SID or one of the two negative ones (R153, R154). -/
theorem Routed.response_shape (h : Routed e sid sp outcome) :
    outcome.2 = [0x7F, 0x00, 0x12] ∨ outcome.2 = [0x7F, 0x00, 0x13] ∨
    (outcome.2.head? = some (sid + 0x40) ∧ (sid = 0x3E ∨ sid = 0x10 ∨ sid = 0x22 ∨ sid = 0x19)) := by
  cases h with
  | otherSubfunction | unsupported => exact .inl rfl
  | shortReadDid => exact .inr (.inl rfl)
  | testerPresent | sessionControl | readDid | dtcCount | dtcList => exact .inr (.inr ⟨rfl, by decide⟩)

/-- The one write of the router (R164). -/
theorem Routed.ecu_eq (h : Routed e sid sp outcome) :
    outcome.1 = if sid = 0x10 then { e with sessionActive := true } else e := by
  cases h with
  | unsupported _ _ _ h10 => rw [if_neg h10]
  | testerPresent | sessionControl | shortReadDid | readDid | dtcCount | dtcList | otherSubfunction => rfl

/-- A response is a function of the request, of `did` for SID 0x22 and of `dtc` for SID 0x19 (R164). -/
theorem Routed.response_congr {e' : Ecu} (h : Routed e sid sp outcome) (hdid : sid = 0x22 → e'.did = e.did)
    (hdtc : sid = 0x19 → e'.dtc = e.dtc) : (dispatch e' sid sp).2 = outcome.2 := by
  cases h with
  | testerPresent | sessionControl => rfl
  | shortReadDid _ short => rw [dispatch_readDid_short e' sp short]
  | readDid hi lo ignored => rw [dispatch_readDid_cons, hdid rfl]
  | dtcCount => rw [dispatch_dtcCount, serveDtcCount, hdtc rfl]; rfl
  | dtcList => rw [dispatch_dtcList, serveDtcList, hdtc rfl]; rfl
  | otherSubfunction _ notCount notList => rw [dispatch_otherSubfunction e' sp notCount notList]
  | unsupported _ _ h3E h10 h22 h19 => rw [dispatch_unsupported e' sp h3E h10 h22 h19]

end Router

section HandleFrame

variable {n : BitVec 4} {rest sp : Bytes} {sid : Byte} {s : State}

theorem codecDecode_singleFrame (n : BitVec 4) (h : rest.length ≤ 7) :
    codecDecode (BitVec.ofNat 8 n.toNat :: rest) = .frame (.sf n (rest.take n.toNat)) := by
  have hn := n.isLt
  have hb : (BitVec.ofNat 8 n.toNat).toNat = n.toNat := by simpa using toNat_ofNat_add_nibble (Nat.zero_le 240) n
  rw [codecDecode_sf h (by omega), lowNibble_eq_ofNat, hb, Nat.mod_eq_of_lt hn, BitVec.ofNat_toNat, BitVec.setWidth_eq]

variable (hrest : rest.length ≤ 7) (hdata : rest.take n.toNat = sid :: sp)
include hrest hdata

/-- HANDLE_FRAME of a SingleFrame that carries a request is the router's answer, wrapped (R184, R185). -/
theorem exec_handleFrame_request (s : State) : exec (.handleFrame (BitVec.ofNat 8 n.toNat :: rest)) s =
    .next (respond (dispatch s.ecu sid sp) s) := by
  show Host.Outcome.next (handleDecoded (codecDecode _) s) = _
  rw [codecDecode_singleFrame n hrest, hdata]; rfl

theorem exec_handleFrame_answer {e : Ecu} {r : Bytes} (hr : dispatch s.ecu sid sp = (e, r)) (hlen : r.length ≤ 7) :
    exec (.handleFrame (BitVec.ofNat 8 n.toNat :: rest)) s =
      .next (s.after e (.bytes (BitVec.ofNat 8 r.length :: r))) := by
  rw [exec_handleFrame_request hrest hdata, hr, respond_of_le s hlen]

theorem exec_handleFrame_overflow (hlen : 7 < (dispatch s.ecu sid sp).2.length) :
    exec (.handleFrame (BitVec.ofNat 8 n.toNat :: rest)) s = .next (s.faulted .respOverflow) := by
  rw [exec_handleFrame_request hrest hdata, respond_of_lt s hlen]

end HandleFrame

/-- Settles O26: the response does not depend on the service payload. -/
theorem testerPresentAnswers : Obligations.TesterPresentAnswers := fun _ _ sp s hrest hdata =>
  exec_handleFrame_answer hrest hdata (dispatch_testerPresent s.ecu sp) (by simp)

/-- Settles O27: the session type is the byte after the SID, or the default. -/
theorem sessionControlAnswers : Obligations.SessionControlAnswers := by
  intro n rest sp s hrest hdata
  have answer := exec_handleFrame_answer hrest hdata (dispatch_sessionControl s.ecu sp) (by simp)
  constructor
  · rintro rfl; exact answer
  · rintro st ignored rfl; exact answer

/-- Settles O28: the router's three answers, of which the stored value alone can be too long. -/
theorem readDidAnswers : Obligations.ReadDidAnswers := by
  intro n rest sp s hrest hdata
  refine ⟨fun hshort => ?short, ?unknown, ?fits, ?overflows⟩
  case short => exact exec_handleFrame_answer hrest hdata (dispatch_readDid_short s.ecu sp hshort) (by simp)
  case unknown =>
    rintro hi lo ignored rfl hv
    exact exec_handleFrame_answer hrest hdata (dispatch_readDid_unknown ignored hv) (by simp)
  case fits =>
    rintro hi lo ignored v rfl hv hlen
    exact exec_handleFrame_answer hrest hdata (dispatch_readDid_stored ignored hv) (Nat.add_le_add_right hlen 3)
  case overflows =>
    rintro hi lo ignored v rfl hv hlen
    refine exec_handleFrame_overflow hrest hdata ?_
    rw [dispatch_readDid_stored ignored hv]
    exact Nat.add_lt_add_right hlen 3

/-- Settles O29: the count byte is the number of codes modulo 256. -/
theorem dtcCountAnswers : Obligations.DtcCountAnswers := by
  intro n rest ignored s hrest hdata
  refine ⟨BitVec.ofNat 8 s.ecu.dtc.length,
    exec_handleFrame_answer hrest hdata (dispatch_dtcCount s.ecu ignored) (by simp), fun hcount => ?_⟩
  rw [BitVec.toNat_ofNat]
  omega

/-- Settles O30: four bytes for each code after the first two, so a second code is one too many. -/
theorem dtcListAnswers : Obligations.DtcListAnswers := by
  intro n rest ignored s hrest hdata
  have answer := dispatch_dtcList_records s.ecu ignored
  refine ⟨answer, fun hnone => ?_, fun c hone => ?_, fun hmany => ?_⟩
  · rw [hnone] at answer
    exact exec_handleFrame_answer hrest hdata answer (by simp)
  · rw [hone] at answer
    exact exec_handleFrame_answer hrest hdata answer (by simp)
  · refine exec_handleFrame_overflow hrest hdata ?_
    rw [dispatch_dtcList_length]
    omega

/-- Settles O31: both kinds of request get the same negative response. -/
theorem unsupportedAnswers : Obligations.UnsupportedAnswers := by
  rintro n rest sp sid s hrest hdata (⟨rfl, h1, h2⟩ | ⟨h3E, h10, h22, h19⟩)
  · exact exec_handleFrame_answer hrest hdata (dispatch_otherSubfunction s.ecu sp h1 h2) (by simp)
  · exact exec_handleFrame_answer hrest hdata (dispatch_unsupported s.ecu sp h3E h10 h22 h19) (by simp)

/-- Settles O33, from the list of the router's answers. -/
theorem routerResponseShapes : Obligations.RouterResponseShapes := fun e sid sp =>
  (dispatch_routed e sid sp).response_shape

/-- Settles O34, from the list of the router's answers. -/
theorem routerFootprint : Obligations.RouterFootprint := fun e sid sp =>
  ⟨(dispatch_routed e sid sp).ecu_eq, fun _ hdid hdtc => (dispatch_routed e sid sp).response_congr hdid hdtc⟩

/-- Settles O35: the length of each answer of the router. -/
theorem routerResponseLengths : Obligations.RouterResponseLengths := by
  intro e sp
  refine ⟨rfl, rfl, fun hshort => ?short, ?unknown, ?stored, fun hcount => ?count, fun hlist => ?list,
    fun h1 h2 => ?otherSubfunction, fun sid h3E h10 h22 h19 => ?unsupported⟩
  case short => rw [dispatch_readDid_short e sp hshort]; rfl
  case unknown =>
    rintro hi lo rest rfl hv
    rw [dispatch_readDid_unknown rest hv]; rfl
  case stored =>
    rintro hi lo rest v rfl hv
    rw [dispatch_readDid_stored rest hv]
    exact Nat.add_comm v.length 3
  case count =>
    obtain ⟨rest, rfl⟩ := List.head?_eq_some_iff.mp hcount
    rfl
  case list =>
    obtain ⟨rest, rfl⟩ := List.head?_eq_some_iff.mp hlist
    exact dispatch_dtcList_length e rest
  case otherSubfunction => rw [dispatch_otherSubfunction e sp h1 h2]; rfl
  case unsupported => rw [dispatch_unsupported e sp h3E h10 h22 h19]; rfl

end Sys2Proof.Machine
end

section
/-! PROOF. The ECU Session (R180 to R195): HANDLE_FRAME by the kind of its frame, when a response overflows, and the
obligations of the configuration and control transactions. -/

namespace Sys2Proof.Machine

section HandleFrameKinds

variable {raw rest : Bytes} {b : Byte} (s : State)

theorem exec_handleFrame_decoded {d : Decoded} (h : codecDecode raw = d) :
    exec (.handleFrame raw) s = .next (handleDecoded d s) := by
  rw [← h]; rfl

theorem exec_handleFrame_nil :
    exec (.handleFrame []) s = .next (s.after s.ecu (.bytes (transportError s.params 0x12))) :=
  exec_handleFrame_decoded s codecDecode_nil

theorem exec_handleFrame_shortFf (hb : b.toNat / 16 = 1) :
    exec (.handleFrame [b]) s = .next (s.faulted .shortFf) :=
  exec_handleFrame_decoded s (codecDecode_ff (rest := []) (Nat.zero_le 7) hb)

variable (h : rest.length ≤ 7)
include h

theorem exec_handleFrame_unknown (hb : 3 ≤ b.toNat / 16) :
    exec (.handleFrame (b :: rest)) s = .next (s.after s.ecu (.bytes (transportError s.params 0x12))) :=
  exec_handleFrame_decoded s (codecDecode_unknown h hb)

theorem exec_handleFrame_cf (hb : b.toNat / 16 = 2) :
    exec (.handleFrame (b :: rest)) s = .next (s.after s.ecu (.bytes (transportError s.params 0x31))) :=
  exec_handleFrame_decoded s (codecDecode_cf h hb)

theorem exec_handleFrame_ff (hb : b.toNat / 16 = 1) (hne : rest ≠ []) :
    exec (.handleFrame (b :: rest)) s = .next (s.after s.ecu (.bytes (transportError s.params 0x31))) := by
  obtain ⟨lo, chunk, rfl⟩ := List.exists_cons_of_ne_nil hne
  exact exec_handleFrame_decoded s (codecDecode_ff h hb)

/-- An empty payload is answered before the router, and always wrapped (R183). -/
theorem exec_handleFrame_emptyPayload (hb : b.toNat / 16 = 0) (hdata : rest.take (b.toNat % 16) = []) :
    exec (.handleFrame (b :: rest)) s = .next (s.after s.ecu (.bytes [0x03, 0x7F, 0x00, 0x12])) := by
  have hd := codecDecode_sf h hb
  rw [hdata] at hd
  exact exec_handleFrame_decoded s hd

end HandleFrameKinds

/-- Byte 0 of a SingleFrame is its SF_DL (R86). -/
theorem exists_sfDl {b : Byte} (hb : b.toNat / 16 = 0) :
    ∃ n : BitVec 4, b = BitVec.ofNat 8 n.toNat ∧ n.toNat = b.toNat % 16 := by
  refine ⟨lowNibble b, ?_, lowNibble_toNat b⟩
  apply BitVec.eq_of_toNat_eq
  rw [BitVec.toNat_ofNat, lowNibble_toNat]
  omega

/-- Settles O37: the transport-level answer of each frame kind. -/
theorem transportErrorAnswers : Obligations.TransportErrorAnswers := by
  intro s te hte
  obtain rfl : te = transportError s.params := hte
  refine ⟨exec_handleFrame_nil s, fun b rest h => ⟨exec_handleFrame_unknown s h, exec_handleFrame_cf s h,
    exec_handleFrame_ff s h, ?emptyPayload⟩⟩
  case emptyPayload =>
    rintro (hzero | ⟨hb, rfl⟩)
    · exact exec_handleFrame_emptyPayload s h (by omega) (by simp [hzero])
    · exact exec_handleFrame_emptyPayload s h hb List.take_nil

/-- The router's responses of more than 7 bytes: a stored value of more than 4, and a list of two or more codes. -/
theorem Routed.overflow_iff {e : Ecu} {sid : Byte} {sp : Bytes} {outcome : Ecu × Bytes} (h : Routed e sid sp outcome) :
    7 < outcome.2.length ↔
      (sid = 0x22 ∧ ∃ hi lo more v, sp = hi :: lo :: more ∧
        didRead e.did (BitVec.ofNat 16 (hi.toNat * 256 + lo.toNat)) = some v ∧ 4 < v.length) ∨
      (sid = 0x19 ∧ sp.head? = some 0x02 ∧ 2 ≤ e.dtc.length) := by
  cases h with
  | testerPresent | sessionControl | dtcCount => simp [serveDtcCount]
  | shortReadDid _ short =>
    refine iff_of_false (by simp) (not_or.mpr ⟨?_, by simp⟩)
    rintro ⟨-, hi, lo, more, v, rfl, -⟩
    simp at short
  | readDid hi lo ignored =>
    cases hv : didRead e.did (BitVec.ofNat 16 (hi.toNat * 256 + lo.toNat)) with
    | none =>
      refine iff_of_false (by simp) (not_or.mpr ⟨?_, by simp⟩)
      rintro ⟨-, _, _, _, _, heq, hstored, -⟩
      cases heq
      simp [hv] at hstored
    | some v => simp [hv, Nat.lt_iff_add_one_le]
  | dtcList rest =>
    have hlen : 7 < 2 + 4 * e.dtc.length ↔ 2 ≤ e.dtc.length := by omega
    rw [← dispatch_dtcList e rest, dispatch_dtcList_length, hlen]
    simp
  | otherSubfunction _ _ notList => exact iff_of_false (by simp) (not_or.mpr ⟨by simp, fun h => notList h.2.1⟩)
  | unsupported _ _ _ _ h22 h19 => exact iff_of_false (by simp) (not_or.mpr ⟨fun h => h22 h.1, fun h => h19 h.1⟩)

/-- A response faults exactly when it is too long: one that fits ends in a byte string. -/
theorem respond_eq_overflow_iff (outcome : Ecu × Bytes) (s : State) :
    respond outcome s = s.faulted .respOverflow ↔ 7 < outcome.2.length := by
  refine ⟨fun h => ?_, respond_of_lt s⟩
  by_contra hlen
  have hr := congrArg State.results ((respond_of_le s (Nat.not_lt.mp hlen)).symm.trans h)
  simp [faulted_eq_after] at hr

/-- Settles O38: the overflow is the router's answer being too long. -/
theorem responseOverflowExactly : Obligations.ResponseOverflowExactly := by
  intro n rest sid sp s hrest hdata
  rw [exec_handleFrame_request hrest hdata, Host.Outcome.next.injEq, respond_eq_overflow_iff]
  exact (dispatch_routed s.ecu sid sp).overflow_iff

/-- The ends of HANDLE_FRAME that R186 allows: a SingleFrame, the bare negative response under the default setting, and
the two faults with their causes. -/
inductive HandleFrameEnd (s : State) : Bytes → State → Prop where
  | singleFrame (raw : Bytes) (e : Ecu) (r : Bytes) (fits : r.length ≤ 7) :
      HandleFrameEnd s raw (s.after e (.bytes (BitVec.ofNat 8 r.length :: r)))
  | bare (raw : Bytes) (nrc : Byte) (unwrapped : s.params.wrapTransportErrors = false) :
      HandleFrameEnd s raw (s.after s.ecu (.bytes [0x7F, 0x00, nrc]))
  | shortFf (b : Byte) (kind : b.toNat / 16 = 1) : HandleFrameEnd s [b] (s.faulted .shortFf)
  | overflow (n : BitVec 4) (rest : Bytes) (sid : Byte) (sp : Bytes) (data : rest.take n.toNat = sid :: sp)
      (long : 7 < (dispatch s.ecu sid sp).2.length) :
      HandleFrameEnd s (BitVec.ofNat 8 n.toNat :: rest) (s.faulted .respOverflow)

/-- TE(nrc) is a SingleFrame where it is wrapped, and the bare response where it is not (R180). -/
theorem HandleFrameEnd.of_transportError (s : State) (raw : Bytes) (nrc : Byte) :
    HandleFrameEnd s raw (s.after s.ecu (.bytes (transportError s.params nrc))) := by
  unfold transportError
  split_ifs with hwrap
  · exact .singleFrame raw s.ecu (negativeResponse nrc) (by simp [negativeResponse])
  · exact .bare raw nrc (Bool.eq_false_of_not_eq_true hwrap)

theorem exec_handleFrame_sf_end {b : Byte} {rest : Bytes} (s : State) (h : rest.length ≤ 7) (hb : b.toNat / 16 = 0) :
    ∃ t, exec (.handleFrame (b :: rest)) s = .next t ∧ HandleFrameEnd s (b :: rest) t := by
  match hdata : rest.take (b.toNat % 16) with
  | [] => exact ⟨_, exec_handleFrame_emptyPayload s h hb hdata, .singleFrame _ s.ecu [0x7F, 0x00, 0x12] (by simp)⟩
  | sid :: sp =>
    obtain ⟨n, rfl, hn⟩ := exists_sfDl hb
    rw [← hn] at hdata
    rcases Nat.lt_or_ge 7 (dispatch s.ecu sid sp).2.length with hlong | hfits
    · exact ⟨_, exec_handleFrame_overflow h hdata hlong, .overflow n rest sid sp hdata hlong⟩
    · exact ⟨_, exec_handleFrame_answer h hdata rfl hfits, .singleFrame _ _ _ hfits⟩

/-- HANDLE_FRAME of at most 8 bytes ends in one of those ways, by the kind of the frame. -/
theorem exec_handleFrame_end (raw : Bytes) (s : State) (h : raw.length ≤ 8) :
    ∃ t, exec (.handleFrame raw) s = .next t ∧ HandleFrameEnd s raw t := by
  match raw with
  | [] => exact ⟨_, exec_handleFrame_nil s, .of_transportError s [] _⟩
  | b :: rest =>
    have hrest : rest.length ≤ 7 := Nat.le_of_succ_le_succ h
    obtain hb | hb | hb | hb :
        b.toNat / 16 = 0 ∨ b.toNat / 16 = 1 ∨ b.toNat / 16 = 2 ∨ 3 ≤ b.toNat / 16 := by omega
    · exact exec_handleFrame_sf_end s hrest hb
    · by_cases hne : rest = []
      · subst hne
        exact ⟨_, exec_handleFrame_shortFf s hb, .shortFf b hb⟩
      · exact ⟨_, exec_handleFrame_ff s hrest hb hne, .of_transportError s _ _⟩
    · exact ⟨_, exec_handleFrame_cf s hrest hb, .of_transportError s _ _⟩
    · exact ⟨_, exec_handleFrame_unknown s hrest hb, .of_transportError s _ _⟩

/-- Settles O39: the four disjuncts are the four allowed ends. -/
theorem handleFrameTotality : Obligations.HandleFrameTotality := by
  intro raw s hraw
  obtain ⟨t, hexec, hend⟩ := exec_handleFrame_end raw s hraw
  cases hend with
  | singleFrame _ e r fits => exact .inl ⟨e, r, fits, hexec⟩
  | bare _ nrc unwrapped => exact .inr (.inl ⟨unwrapped, nrc, hexec⟩)
  | shortFf b kind => exact .inr (.inr (.inl ⟨b, rfl, kind, hexec⟩))
  | overflow n rest sid sp data long => exact .inr (.inr (.inr ⟨n, rest, sid, sp, rfl, data, long, hexec⟩))

section Configuration

variable (s : State)

theorem exec_setDid_of_le (id : Did) {v : Bytes} (h : v.length ≤ s.params.didValMax) :
    exec (.setDid id v) s = .next (s.after { s.ecu with did := didWrite s.ecu.did id v } .done) :=
  if_neg (Nat.not_lt.mpr h)

theorem exec_setDid_of_lt (id : Did) {v : Bytes} (h : s.params.didValMax < v.length) :
    exec (.setDid id v) s = .next (s.faulted .didValueTooLong) :=
  if_pos h

theorem exec_addDtc_of_ne (c : Dtc) (h : s.ecu.dtc.length ≠ s.params.dtcCap) :
    exec (.addDtc c) s = .next (s.after { s.ecu with dtc := s.ecu.dtc ++ [c] } .done) :=
  if_neg h

theorem exec_addDtc_of_eq (c : Dtc) (h : s.ecu.dtc.length = s.params.dtcCap) :
    exec (.addDtc c) s = .next (s.faulted .dtcFull) :=
  if_pos h

theorem exec_clearDtc : exec .clearDtc s = .next (s.after { s.ecu with dtc := [] } .done) := rfl

theorem exec_readStatus : exec .readStatus s = .next (s.after s.ecu (.status (statusWord s.ecu))) := rfl

theorem exec_reservedCmd6To7 (low : BitVec 1) (ops : Operands) :
    exec (.reservedCmd6To7 low ops) s = .next (s.faulted .badCmd) := rfl

theorem exec_reservedCmdCToF (low : BitVec 2) (ops : Operands) :
    exec (.reservedCmdCToF low ops) s = .next (s.faulted .badCmd) := rfl

end Configuration

/-- Settles O40: the store written is `didWrite`, whose reads the laws of the store give. -/
theorem setDidResult : Obligations.SetDidResult :=
  ⟨fun _ => rfl, fun id v s => ⟨fun h => ⟨didWrite s.ecu.did id v, exec_setDid_of_le s id h,
    didRead_didWrite_same _ _ _, fun _ hkey => didRead_didWrite_other _ _ hkey⟩, exec_setDid_of_lt s id⟩⟩

/-- Settles O42: the two cases of the fullness test. -/
theorem addDtcResult : Obligations.AddDtcResult :=
  ⟨fun _ => rfl, fun c s => ⟨exec_addDtc_of_ne s c, exec_addDtc_of_eq s c⟩⟩

/-- Settles O43: the count and list requests are SingleFrames with SF_DL 2, answered from the empty store. -/
theorem clearDtcResult : Obligations.ClearDtcResult := by
  refine ⟨fun _ => rfl, fun s => ⟨_, exec_clearDtc s, rfl, ?count, ?list⟩⟩
  case count =>
    exact exec_handleFrame_answer (n := 2) (sid := 0x19) (sp := [0x01]) (by simp) rfl (dispatch_dtcCount _ [])
      (by simp)
  case list =>
    exact exec_handleFrame_answer (n := 2) (sid := 0x19) (sp := [0x02]) (by simp) rfl (dispatch_dtcList _ [])
      (by simp [dtcRecords])

section StatusWord

variable (e : Ecu)

theorem statusWord_sessionActive : (statusWord e).getLsbD 0 = e.sessionActive := by
  simp [statusWord]

theorem statusWord_bit7 : (statusWord e).getLsbD 7 = false := by
  simp [statusWord]

theorem statusWord_fault {k : Nat} (hk : k < 6) : (statusWord e).getLsbD (k + 1) = e.fault.getLsbD k := by
  have h8 : k + 1 < 8 := by omega
  have h16 : k + 1 < 16 := by omega
  simp [statusWord, h8, h16]

/-- The three fields of STATUS do not overlap, so the word is their sum. -/
theorem statusWord_toNat (h : e.dtc.length ≤ 255) :
    (statusWord e).toNat = e.sessionActive.toNat + 2 * e.fault.toNat + 256 * e.dtc.length := by
  have hactive : e.sessionActive.toNat < 2 := Bool.toNat_lt _
  have hfault := e.fault.isLt
  simp (disch := omega) only [statusWord, BitVec.toNat_or, BitVec.toNat_shiftLeft, BitVec.toNat_setWidth,
    BitVec.toNat_ofNat, BitVec.toNat_ofBool, Nat.mod_eq_of_lt]
  rw [Nat.or_comm e.sessionActive.toNat, shiftLeft_or_of_lt _ _ 1 hactive, Nat.or_comm,
    shiftLeft_or_of_lt _ _ 8 (by omega)]
  omega

end StatusWord

/-- Settles O44: STATUS field by field. -/
theorem readStatusResult : Obligations.ReadStatusResult :=
  ⟨fun _ => rfl, fun s => ⟨statusWord s.ecu, exec_readStatus s, statusWord_sessionActive _, statusWord_bit7 _,
    fun _ => statusWord_fault _, statusWord_toNat _⟩⟩

theorem decodeCommand_reserved {code : BitVec 4} (ops : Operands)
    (h : code.toNat = 6 ∨ code.toNat = 7 ∨ 12 ≤ code.toNat) :
    (∃ low, decodeCommand code ops = .reservedCmd6To7 low ops) ∨
    (∃ low, decodeCommand code ops = .reservedCmdCToF low ops) := by
  have hcode : (code = 0x6 ∨ code = 0x7) ∨ code = 0xC ∨ code = 0xD ∨ code = 0xE ∨ code = 0xF := by
    revert code; decide
  rcases hcode with (rfl | rfl) | rfl | rfl | rfl | rfl
  case inl.inl | inl.inr => exact .inl ⟨_, rfl⟩
  all_goals exact .inr ⟨_, rfl⟩

/-- Settles O45: a reserved code decodes to one of the two reserved rows, which both fault. -/
theorem reservedCommandsFault : Obligations.ReservedCommandsFault := by
  refine ⟨fun code ops s hcode => ?_, fun low ops s => exec_reservedCmd6To7 s low ops,
    fun low ops s => exec_reservedCmdCToF s low ops⟩
  rw [decodeTransaction]
  obtain ⟨low, hrow⟩ | ⟨low, hrow⟩ := decodeCommand_reserved ops hcode
  · rw [hrow, exec_reservedCmd6To7]
  · rw [hrow, exec_reservedCmdCToF]

end Sys2Proof.Machine
end

section
/-! PROOF. Exceptions (R211 to R216): what the result of a transaction says about its effect on the state, that a fault
bit is sticky, and the host transactions that end in each fault. -/

namespace Sys2Proof.Machine

section Effects

variable {i : Instr} {s t : State}

/-- The result tells the effect: FAULT(c) is the latched bit and no more, and any other result but DONE and the
response of DiagnosticSessionControl leaves S as it was. -/
theorem Effect.result_cases {r : Result} (h : Effect i s t) (ht : t.results = s.results ++ [r]) :
    ((∀ c, r ≠ .fault c) ∧ t = s.after s.ecu r) ∨ (∃ c, r = .fault c ∧ t = s.faulted c) ∨ r = .done ∨
      ∃ st, r = .bytes [0x02, 0x50, st] := by
  cases h with
  | none r' nofault =>
    obtain rfl : r' = r := result_unique rfl ht
    exact .inl ⟨nofault, rfl⟩
  | fault c => exact .inr (.inl ⟨c, (result_unique rfl ht).symm, rfl⟩)
  | session st => exact .inr (.inr (.inr ⟨st, (result_unique rfl ht).symm⟩))
  | stored | appended | cleared => exact .inr (.inr (.inl (result_unique rfl ht).symm))
  | reset => exact .inr (.inr (.inl (by simpa using ht.symm)))

theorem Effect.eq_faulted {c : FaultCode} (h : Effect i s t) (ht : t.results = s.results ++ [.fault c]) :
    t = s.faulted c := by
  obtain ⟨hr, -⟩ | ⟨c', hr, rfl⟩ | hr | ⟨st, hr⟩ := h.result_cases ht
  · exact absurd rfl (hr c)
  · cases hr; rfl
  · cases hr
  · cases hr

@[simp] theorem faulted_results (c : FaultCode) : (s.faulted c).results = s.results ++ [.fault c] := rfl

@[simp] theorem faulted_fault (c : FaultCode) :
    (s.faulted c).ecu.fault = s.ecu.fault ||| BitVec.twoPow 6 (c.code - 1) := rfl

theorem latched_faulted (c : FaultCode) : latched c (s.faulted c).ecu.fault = true := by
  have hbit : c.code - 1 < 6 := by cases c <;> decide
  simp [latched, hbit]

/-- The fault bits are sticky (R37, R215): no effect but the reset clears one. -/
theorem Effect.fault_sticky {k : Nat} (h : Effect i s t) (hi : ∀ id, i ≠ .reset id)
    (hk : s.ecu.fault.getLsbD k = true) : t.ecu.fault.getLsbD k = true := by
  cases h with
  | fault c => simp [hk]
  | reset id by_request => exact absurd by_request (hi id)
  | none | session | stored | appended | cleared => exact hk

/-- Every instruction answers a next state, whatever the state. -/
theorem exec_total (i : Instr) (s : State) : ∃ t, exec i s = .next t := by
  by_cases hreset : ∃ id, i = .reset id
  · obtain ⟨id, rfl⟩ := hreset
    exact ⟨_, exec_reset id s⟩
  · obtain ⟨e, r, h⟩ := exec_ends s (isReset_eq_false hreset)
    exact ⟨_, h⟩

end Effects

/-- Settles O48: FAULT(c) is the latched bit and no more, every instruction goes on from there, and the bit is
sticky. -/
theorem faultChangesOnlyItsBit : Obligations.FaultChangesOnlyItsBit := by
  intro i s t c h ht
  obtain rfl := (exec_effect h).eq_faulted ht
  refine ⟨rfl, latched_faulted c, fun j => ?_⟩
  obtain ⟨u, hu⟩ := exec_total j (s.faulted c)
  exact ⟨u, hu, fun hj => (exec_effect hu).fault_sticky hj (latched_faulted c)⟩

/-- Settles O49: an error is neither a fault nor DONE, and no negative response is the one of
DiagnosticSessionControl. -/
theorem errorsChangeNothing : Obligations.ErrorsChangeNothing := by
  intro i s t r h ht herror
  obtain ⟨-, heq⟩ | ⟨c, rfl, -⟩ | rfl | ⟨st, rfl⟩ := (exec_effect h).result_cases ht
  · exact heq
  all_goals simp at herror

/-- The instruction ends in FAULT(c). -/
def Faults (i : Instr) (s : State) (c : FaultCode) : Prop := exec i s = .next (s.faulted c)

section Faults

variable {i : Instr} {s t : State} {c : FaultCode}

/-- To end in FAULT(c) is to present it as the result. -/
theorem results_fault_iff (h : exec i s = .next t) : t.results = s.results ++ [.fault c] ↔ Faults i s c := by
  rw [Faults, h, Host.Outcome.next.injEq]
  refine ⟨(exec_effect h).eq_faulted, ?_⟩
  rintro rfl
  exact faulted_results c

theorem faults_iff_of_results {r : Result} (h : exec i s = .next t) (ht : t.results = s.results ++ [r]) :
    Faults i s c ↔ r = .fault c := by
  rw [← results_fault_iff h, ht]
  simp

theorem not_faults_of_results {r : Result} (h : exec i s = .next t) (ht : t.results = s.results ++ [r])
    (hr : ∀ c, r ≠ .fault c) : ¬ Faults i s c :=
  fun hfault => hr c ((faults_iff_of_results h ht).mp hfault)

theorem faults_iff_of_faulted {c' : FaultCode} (h : exec i s = .next (s.faulted c')) : Faults i s c ↔ c = c' := by
  rw [faults_iff_of_results h (faulted_results c'), Result.fault.injEq, eq_comm]

/-- The two faults of the transport decode and their causes (R124, R126). -/
theorem codecDecode_eq_fault_iff {raw : Bytes} : codecDecode raw = .fault c ↔
    (c = .frameTooLong ∧ 8 < raw.length) ∨ (c = .shortFf ∧ ∃ b, raw = [b] ∧ b.toNat / 16 = 1) := by
  constructor
  · intro h
    rcases Nat.lt_or_ge 8 raw.length with hlong | hfits
    · rw [codecDecode_of_lt hlong] at h
      cases h
      exact .inl ⟨rfl, hlong⟩
    · match raw with
      | [] => cases h
      | b :: rest =>
        rw [codecDecode_cons (Nat.le_of_succ_le_succ hfits)] at h
        split_ifs at h with _ hb
        cases rest with
        | nil => cases h; exact .inr ⟨rfl, b, rfl, hb⟩
        | cons => cases h
  · rintro (⟨rfl, hlong⟩ | ⟨rfl, b, rfl, hb⟩)
    · exact codecDecode_of_lt hlong
    · exact codecDecode_ff (rest := []) (Nat.zero_le 7) hb

theorem faults_decode_iff {raw : Bytes} : Faults (.decode raw) s c ↔ codecDecode raw = .fault c := by
  cases hd : codecDecode raw with
  | frame f => rw [faults_iff_of_results (exec_decode_frame s hd) rfl]; simp
  | error e => rw [faults_iff_of_results (exec_decode_error s hd) rfl]; simp
  | fault c' => rw [faults_iff_of_faulted (exec_decode_fault s hd), Decoded.fault.injEq, eq_comm]

/-- HANDLE_FRAME of a SingleFrame whose response is longer than 7 bytes (R185). -/
def Overflows (raw : Bytes) (s : State) : Prop :=
  ∃ (n : BitVec 4) (rest : Bytes) (sid : Byte) (sp : Bytes), raw = BitVec.ofNat 8 n.toNat :: rest ∧
    rest.length ≤ 7 ∧ rest.take n.toNat = sid :: sp ∧ 7 < (dispatch s.ecu sid sp).2.length

theorem faults_handleFrame_iff {raw : Bytes} :
    Faults (.handleFrame raw) s c ↔ codecDecode raw = .fault c ∨ (c = .respOverflow ∧ Overflows raw s) := by
  constructor
  · intro h
    rcases Nat.lt_or_ge 8 raw.length with hlong | hfits
    · have hd := codecDecode_of_lt hlong
      rw [faults_iff_of_faulted (exec_handleFrame_decoded s hd)] at h
      exact .inl (h ▸ hd)
    · obtain ⟨t, hexec, hend⟩ := exec_handleFrame_end raw s hfits
      cases hend with
      | singleFrame | bare => rw [faults_iff_of_results hexec rfl] at h; cases h
      | shortFf b kind =>
        rw [faults_iff_of_faulted hexec] at h
        exact .inl (codecDecode_eq_fault_iff.mpr (.inr ⟨h, b, rfl, kind⟩))
      | overflow n rest sid sp data long =>
        rw [faults_iff_of_faulted hexec] at h
        exact .inr ⟨h, n, rest, sid, sp, rfl, Nat.le_of_succ_le_succ hfits, data, long⟩
  · rintro (hd | ⟨rfl, n, rest, sid, sp, rfl, hrest, data, long⟩)
    · exact exec_handleFrame_decoded s hd
    · exact exec_handleFrame_overflow hrest data long

theorem faults_setDid_iff {id : Did} {v : Bytes} :
    Faults (.setDid id v) s c ↔ c = .didValueTooLong ∧ s.params.didValMax < v.length := by
  rcases Nat.lt_or_ge s.params.didValMax v.length with hlong | hfits
  · simp [faults_iff_of_faulted (exec_setDid_of_lt s id hlong), hlong]
  · rw [faults_iff_of_results (exec_setDid_of_le s id hfits) rfl]
    simp [hfits]

theorem faults_addDtc_iff {code : Dtc} :
    Faults (.addDtc code) s c ↔ c = .dtcFull ∧ s.ecu.dtc.length = s.params.dtcCap := by
  by_cases hfull : s.ecu.dtc.length = s.params.dtcCap
  · simp [faults_iff_of_faulted (exec_addDtc_of_eq s code hfull), hfull]
  · rw [faults_iff_of_results (exec_addDtc_of_ne s code hfull) rfl]
    simp [hfull]

theorem faults_reserved_iff {code : BitVec 4} (ops : Operands)
    (hcode : code = 0x6 ∨ code = 0x7 ∨ code = 0xC ∨ code = 0xD ∨ code = 0xE ∨ code = 0xF) :
    Faults (decodeTransaction (.command code ops)) s c ↔ c = .badCmd := by
  refine faults_iff_of_faulted (reservedCommandsFault.1 code ops s ?_)
  revert code; decide

/-- The commands without a fault, whatever their operands. -/
theorem not_faults_of_command {code : BitVec 4} (ops : Operands)
    (hcode : code = 0x0 ∨ code = 0x4 ∨ code = 0x5 ∨ code = 0x8 ∨ code = 0x9 ∨ code = 0xA) :
    ¬ Faults (decodeTransaction (.command code ops)) s c := by
  rcases hcode with rfl | rfl | rfl | rfl | rfl | rfl
  · exact not_faults_of_results (exec_reset ops.ecuId s) rfl (by simp)
  · exact not_faults_of_results (exec_clearDtc s) rfl (by simp)
  · exact not_faults_of_results (exec_readStatus s) rfl (by simp)
  · exact not_faults_of_results (exec_encodeSf _ s) rfl (sfAnswer_encoderAnswer _).ne_fault
  · exact not_faults_of_results (exec_encodeFf _ _ s) rfl (ffAnswer_encoderAnswer _ _ _).ne_fault
  · exact not_faults_of_results (exec_encodeCf _ _ s) rfl (cfAnswer_encoderAnswer _ _ _).ne_fault

end Faults

/-- The 16 command codes, by the faults their transactions can end in: those of a frame, of a value, of a full
fault-code store, F_BAD_CMD always, and none. -/
theorem commandCode_cases (code : BitVec 4) :
    code = 0x1 ∨ code = 0xB ∨ code = 0x2 ∨ code = 0x3 ∨
    (code = 0x6 ∨ code = 0x7 ∨ code = 0xC ∨ code = 0xD ∨ code = 0xE ∨ code = 0xF) ∨
    (code = 0x0 ∨ code = 0x4 ∨ code = 0x5 ∨ code = 0x8 ∨ code = 0x9 ∨ code = 0xA) := by
  revert code; decide

/-- Settles O51: the causes of each command's faults, code by code. -/
theorem faultCauses : Obligations.FaultCauses := by
  intro code ops s t c h
  rw [results_fault_iff h]
  obtain rfl | rfl | rfl | rfl | hreserved | hnone := commandCode_cases code
  · refine (faults_handleFrame_iff (raw := ops.bytes)).trans ?_
    rw [codecDecode_eq_fault_iff]
    cases c <;> simp [Overflows]
  · refine (faults_decode_iff (raw := ops.bytes)).trans ?_
    rw [codecDecode_eq_fault_iff]
    cases c <;> simp
  · refine (faults_setDid_iff (id := ops.did) (v := ops.bytes)).trans ?_
    cases c <;> simp
  · refine (faults_addDtc_iff (code := ops.dtc)).trans ?_
    cases c <;> simp
  · rw [faults_reserved_iff ops hreserved]
    rcases hreserved with rfl | rfl | rfl | rfl | rfl | rfl <;> cases c <;> simp
  · refine iff_of_false (not_faults_of_command ops hnone) ?_
    rcases hnone with rfl | rfl | rfl | rfl | rfl | rfl <;> cases c <;> simp

end Sys2Proof.Machine
end

section
/-! PROOF. The encodings (R85, R95, R100, R106): how a word of each format splits into the fixed bits of its row and the
fields, and the obligations that the decoder and the encoder agree and that the row decoded is the first that
matches. -/

namespace Sys2Proof

/-- A word is the fixed bits `high` above the field `low` exactly when its upper part is `high` and its lower `low`. -/
theorem append_eq_iff {m n : Nat} (high : BitVec m) (low : BitVec n) (w : BitVec (m + n)) :
    high ++ low = w ↔ w.toNat / 2 ^ n = high.toNat ∧ BitVec.ofNat n w.toNat = low := by
  have hlow := low.isLt
  have hpos : 0 < 2 ^ n := Nat.two_pow_pos n
  rw [← BitVec.toNat_inj, ← BitVec.toNat_inj, BitVec.toNat_append, Machine.shiftLeft_or_of_lt _ _ _ hlow,
    BitVec.toNat_ofNat]
  constructor
  · intro h
    rw [← h, Nat.mul_comm, Nat.mul_add_div hpos, Nat.mul_add_mod, Nat.div_eq_of_lt hlow, Nat.mod_eq_of_lt hlow]
    exact ⟨Nat.add_zero _, rfl⟩
  · rintro ⟨hhigh, hlow⟩
    rw [← hhigh, ← hlow, Nat.mul_comm, Nat.div_add_mod]

theorem append_fields {m n : Nat} (high : BitVec m) (low : BitVec n) :
    (high ++ low).toNat / 2 ^ n = high.toNat ∧ BitVec.ofNat n (high ++ low).toNat = low :=
  (append_eq_iff high low _).mp rfl

theorem append_ofNat {m n : Nat} (high : BitVec m) {w : BitVec (m + n)} (h : w.toNat / 2 ^ n = high.toNat) :
    high ++ BitVec.ofNat n w.toNat = w :=
  (append_eq_iff high _ w).mpr ⟨h, rfl⟩

/-- A row that covers the transaction, where none before it does, is the first that covers it (R106). -/
theorem findIdx_covers_eq {t : Transaction} {k : Nat} {row : TableRow} (hrow : opcodeTable[k]? = some row)
    (hcovers : row.covers t = true) (hearlier : (opcodeTable.take k).Forall fun r => r.covers t = false) :
    opcodeTable.findIdx (·.covers t) = k := by
  obtain ⟨hk, rfl⟩ := List.getElem?_eq_some_iff.mp hrow
  refine (List.findIdx_eq hk).mpr ⟨hcovers, fun j hj => ?_⟩
  exact List.forall_iff_forall_mem.mp hearlier _ (List.mem_take_iff_getElem.mpr ⟨j, by omega, rfl⟩)

theorem covers_subfunction_eq_false {hi lo sid : Byte} {sp : Bytes} (h : ¬ (sid = hi ∧ sp.head? = some lo)) :
    (TableRow.subfunction 0xFFFF (hi ++ lo)).covers (.request sid sp) = false :=
  Bool.eq_false_of_not_eq_true (mt (TableRow.covers_subfunction hi lo sid sp).mp h)

theorem covers_service_eq_false {value sid : Byte} (sp : Bytes) (h : sid ≠ value) :
    (TableRow.service 0xFF value).covers (.request sid sp) = false := by
  have hall : (0xFF : Byte) = BitVec.allOnes 8 := by decide
  rw [TableRow.covers, hall, BitVec.and_allOnes]
  exact beq_false_of_ne h

section Pci

/-- The row of a PCI byte by its high nibble, with the bits the row does not fix (R85). -/
theorem decodePci_eq (b : Byte) (rest : Bytes) : decodePci b rest =
    if b.toNat / 16 = 0 then .pciSf (BitVec.ofNat 4 b.toNat) rest
    else if b.toNat / 16 = 1 then .pciFf (BitVec.ofNat 4 b.toNat) rest
    else if b.toNat / 16 = 2 then .pciCf (BitVec.ofNat 4 b.toNat) rest
    else if b.toNat / 16 = 3 then .pciFc (BitVec.ofNat 4 b.toNat) rest
    else if b.toNat / 64 = 1 then .pciReserved4To7 (BitVec.ofNat 6 b.toNat) rest
    else .pciReserved8ToF (BitVec.ofNat 7 b.toNat) rest := by
  obtain ⟨h0, h1, h2, h3⟩ := highNibble_eq_iff_mask b
  have h4 : b &&& 0xC0 = 0x40 ↔ b.toNat / 64 = 1 := by revert b; decide
  simp only [decodePci, ← h0, ← h1, ← h2, ← h3, h4, highNibble_eq_iff, lowNibble_eq_ofNat]
  rfl

variable {b : Byte} (rest : Bytes)

theorem decodePci_sf (h : b.toNat / 16 = 0) : decodePci b rest = .pciSf (BitVec.ofNat 4 b.toNat) rest := by
  rw [decodePci_eq, if_pos h]

theorem decodePci_ff (h : b.toNat / 16 = 1) : decodePci b rest = .pciFf (BitVec.ofNat 4 b.toNat) rest := by
  rw [decodePci_eq, if_neg (by omega), if_pos h]

theorem decodePci_cf (h : b.toNat / 16 = 2) : decodePci b rest = .pciCf (BitVec.ofNat 4 b.toNat) rest := by
  rw [decodePci_eq, if_neg (by omega), if_neg (by omega), if_pos h]

theorem decodePci_fc (h : b.toNat / 16 = 3) : decodePci b rest = .pciFc (BitVec.ofNat 4 b.toNat) rest := by
  rw [decodePci_eq, if_neg (by omega), if_neg (by omega), if_neg (by omega), if_pos h]

theorem decodePci_reserved4To7 (h : b.toNat / 64 = 1) :
    decodePci b rest = .pciReserved4To7 (BitVec.ofNat 6 b.toNat) rest := by
  rw [decodePci_eq, if_neg (by omega), if_neg (by omega), if_neg (by omega), if_neg (by omega), if_pos h]

theorem decodePci_reserved8ToF (h : b.toNat / 128 = 1) :
    decodePci b rest = .pciReserved8ToF (BitVec.ofNat 7 b.toNat) rest := by
  rw [decodePci_eq, if_neg (by omega), if_neg (by omega), if_neg (by omega), if_neg (by omega), if_neg (by omega)]

theorem pciKind_cases (b : Byte) : b.toNat / 16 = 0 ∨ b.toNat / 16 = 1 ∨ b.toNat / 16 = 2 ∨ b.toNat / 16 = 3 ∨
    b.toNat / 64 = 1 ∨ b.toNat / 128 = 1 := by
  have := b.isLt
  omega

theorem canonical_decodePci (b : Byte) (rest : Bytes) : (decodePci b rest).canonical = true := by
  unfold decodePci
  split_ifs <;> rfl

theorem encode_decodePci (b : Byte) (rest : Bytes) : encode (decodePci b rest) = .frame b rest := by
  obtain h | h | h | h | h | h := pciKind_cases b
  · rw [decodePci_sf rest h]; exact congrArg (Transaction.frame · rest) (append_ofNat (n := 4) 0x0#4 h)
  · rw [decodePci_ff rest h]; exact congrArg (Transaction.frame · rest) (append_ofNat (n := 4) 0x1#4 h)
  · rw [decodePci_cf rest h]; exact congrArg (Transaction.frame · rest) (append_ofNat (n := 4) 0x2#4 h)
  · rw [decodePci_fc rest h]; exact congrArg (Transaction.frame · rest) (append_ofNat (n := 4) 0x3#4 h)
  · rw [decodePci_reserved4To7 rest h]; exact congrArg (Transaction.frame · rest) (append_ofNat (n := 6) 0b01#2 h)
  · rw [decodePci_reserved8ToF rest h]; exact congrArg (Transaction.frame · rest) (append_ofNat (n := 7) 0b1#1 h)

theorem findIdx_covers_frame (b : Byte) (rest : Bytes) :
    opcodeTable.findIdx (·.covers (.frame b rest)) = (decodePci b rest).row := by
  unfold decodePci
  split_ifs with h0 h1 h2 h3 h4
  · exact findIdx_covers_eq rfl (beq_iff_eq.mpr h0) trivial
  · exact findIdx_covers_eq rfl (beq_iff_eq.mpr h1) (beq_false_of_ne h0)
  · exact findIdx_covers_eq rfl (beq_iff_eq.mpr h2) ⟨beq_false_of_ne h0, beq_false_of_ne h1⟩
  · exact findIdx_covers_eq rfl (beq_iff_eq.mpr h3) ⟨beq_false_of_ne h0, beq_false_of_ne h1, beq_false_of_ne h2⟩
  · exact findIdx_covers_eq rfl (beq_iff_eq.mpr h4)
      ⟨beq_false_of_ne h0, beq_false_of_ne h1, beq_false_of_ne h2, beq_false_of_ne h3⟩
  · have h5 : b &&& 0x80 = 0x80 := by revert b; decide
    exact findIdx_covers_eq rfl (beq_iff_eq.mpr h5)
      ⟨beq_false_of_ne h0, beq_false_of_ne h1, beq_false_of_ne h2, beq_false_of_ne h3, beq_false_of_ne h4⟩

end Pci

section Requests

theorem isRoutedSubfunction_eq_false_iff {sp : Bytes} :
    isRoutedSubfunction sp = false ↔ sp.head? ≠ some 0x01 ∧ sp.head? ≠ some 0x02 := by
  simp [isRoutedSubfunction]

theorem isRoutedSid_eq_false_iff {sid : Byte} :
    isRoutedSid sid = false ↔ sid ≠ 0x3E ∧ sid ≠ 0x10 ∧ sid ≠ 0x22 ∧ sid ≠ 0x19 := by
  simp [isRoutedSid, and_assoc]

/-- The instruction that the first-match order gives a request (R95, R106): one case per UDS_REQ row, the two fallback
rows only where no earlier row matches. -/
inductive RequestRow : Byte → Bytes → Instr → Prop where
  | testerPresent (sp : Bytes) : RequestRow 0x3E sp (.testerPresent sp)
  | diagnosticSessionControl (sp : Bytes) : RequestRow 0x10 sp (.diagnosticSessionControl sp)
  | readDataByIdentifier (sp : Bytes) : RequestRow 0x22 sp (.readDataByIdentifier sp)
  | readDtcInformation01 (rest : Bytes) : RequestRow 0x19 (0x01 :: rest) (.readDtcInformation01 rest)
  | readDtcInformation02 (rest : Bytes) : RequestRow 0x19 (0x02 :: rest) (.readDtcInformation02 rest)
  | rdtciOther (sp : Bytes) (notCount : sp.head? ≠ some 0x01) (notList : sp.head? ≠ some 0x02) :
      RequestRow 0x19 sp (.rdtciOther sp)
  | sidUnsupported (sid : Byte) (sp : Bytes) (h3E : sid ≠ 0x3E) (h10 : sid ≠ 0x10) (h22 : sid ≠ 0x22)
      (h19 : sid ≠ 0x19) : RequestRow sid sp (.sidUnsupported sid sp)

theorem decodeSid_rdtciOther {sp : Bytes} (h1 : sp.head? ≠ some 0x01) (h2 : sp.head? ≠ some 0x02) :
    decodeSid 0x19 sp = .rdtciOther sp := by
  cases sp with
  | nil => rfl
  | cons sub rest =>
    simp only [List.head?_cons, ne_eq, Option.some.injEq] at h1 h2
    exact (if_neg h1).trans (if_neg h2)

theorem decodeSid_sidUnsupported {sid : Byte} (sp : Bytes) (h3E : sid ≠ 0x3E) (h10 : sid ≠ 0x10) (h22 : sid ≠ 0x22)
    (h19 : sid ≠ 0x19) : decodeSid sid sp = .sidUnsupported sid sp := by
  unfold decodeSid
  rw [if_neg h3E, if_neg h10, if_neg h22, if_neg h19]

/-- Whatever a request decodes to is on the list. -/
theorem requestRow_decodeSid (sid : Byte) (sp : Bytes) : RequestRow sid sp (decodeSid sid sp) := by
  by_cases h3E : sid = 0x3E
  · subst h3E; exact .testerPresent sp
  by_cases h10 : sid = 0x10
  · subst h10; exact .diagnosticSessionControl sp
  by_cases h22 : sid = 0x22
  · subst h22; exact .readDataByIdentifier sp
  by_cases h19 : sid = 0x19
  · subst h19
    by_cases h1 : sp.head? = some 0x01
    · obtain ⟨rest, rfl⟩ := List.head?_eq_some_iff.mp h1
      exact .readDtcInformation01 rest
    by_cases h2 : sp.head? = some 0x02
    · obtain ⟨rest, rfl⟩ := List.head?_eq_some_iff.mp h2
      exact .readDtcInformation02 rest
    rw [decodeSid_rdtciOther h1 h2]
    exact .rdtciOther sp h1 h2
  rw [decodeSid_sidUnsupported sp h3E h10 h22 h19]
  exact .sidUnsupported sid sp h3E h10 h22 h19

variable {sid : Byte} {sp : Bytes} {i : Instr} (h : RequestRow sid sp i)
include h

theorem RequestRow.encode_eq : encode i = .request sid sp := by
  cases h <;> rfl

theorem RequestRow.canonical : i.canonical = true := by
  cases h with
  | rdtciOther _ notCount notList =>
    exact congrArg (!·) (isRoutedSubfunction_eq_false_iff.mpr ⟨notCount, notList⟩)
  | sidUnsupported _ _ h3E h10 h22 h19 =>
    exact congrArg (!·) (isRoutedSid_eq_false_iff.mpr ⟨h3E, h10, h22, h19⟩)
  | testerPresent | diagnosticSessionControl | readDataByIdentifier | readDtcInformation01 | readDtcInformation02 => rfl

theorem RequestRow.findIdx_covers : opcodeTable.findIdx (·.covers (.request sid sp)) = i.row := by
  cases h with
  | testerPresent | diagnosticSessionControl | readDataByIdentifier | readDtcInformation01 | readDtcInformation02 => rfl
  | rdtciOther _ notCount notList =>
    have hcount := covers_subfunction_eq_false (hi := 0x19) (sid := 0x19) fun h => notCount h.2
    have hlist := covers_subfunction_eq_false (hi := 0x19) (sid := 0x19) fun h => notList h.2
    exact findIdx_covers_eq rfl rfl ⟨rfl, rfl, rfl, rfl, rfl, rfl, rfl, rfl, rfl, hcount, hlist⟩
  | sidUnsupported _ _ h3E h10 h22 h19 =>
    have hsub (lo : Byte) := covers_subfunction_eq_false (hi := 0x19) (lo := lo) (sp := sp) fun h => h19 h.1
    exact findIdx_covers_eq rfl (TableRow.covers_fallback sid sp) ⟨rfl, rfl, rfl, rfl, rfl, rfl,
      covers_service_eq_false sp h3E, covers_service_eq_false sp h10, covers_service_eq_false sp h22, hsub 0x01,
      hsub 0x02, covers_service_eq_false sp h19⟩

end Requests

section Commands

variable (ops : Operands)

theorem decodeCommand_6To7 (low : BitVec 1) : decodeCommand (0b011#3 ++ low) ops = .reservedCmd6To7 low ops := by
  obtain rfl | rfl : low = 0 ∨ low = 1 := by revert low; decide
  all_goals rfl

theorem decodeCommand_CToF (low : BitVec 2) : decodeCommand (0b11#2 ++ low) ops = .reservedCmdCToF low ops := by
  obtain rfl | rfl | rfl | rfl : low = 0 ∨ low = 1 ∨ low = 2 ∨ low = 3 := by revert low; decide
  all_goals rfl

/-- What a command keeps of what was presented: its code, the lanes it reads, and no longer a byte string; and its row
is the first that covers the code. -/
structure CommandRow (code : BitVec 4) (i : Instr) : Prop where
  encoded : ∃ ops', encode i = .command code ops' ∧ decodeCommand code ops' = i
  canonical : i.canonical = true
  operandLength_le : i.operandLength ≤ ops.bytes.length
  findIdx_covers : opcodeTable.findIdx (·.covers (.command code ops)) = i.row

/-- The 16 codes, each concrete. -/
theorem commandRow_decodeCommand (code : BitVec 4) : CommandRow ops code (decodeCommand code ops) := by
  rcases Machine.commandCode_cases code with rfl | rfl | rfl | rfl | (rfl | rfl | rfl | rfl | rfl | rfl) |
    (rfl | rfl | rfl | rfl | rfl | rfl)
  all_goals exact ⟨⟨_, rfl, rfl⟩, rfl, by simp [decodeCommand, Instr.operandLength], rfl⟩

end Commands

/-- Settles O5: a PCI byte splits back into kind and low bits, a fallback request is one that no earlier row matches,
and a command's code is concrete. -/
theorem decodeOfEncode : Obligations.DecodeOfEncode := by
  intro i hcanonical
  cases i with
  | pciSf n rest =>
    obtain ⟨hkind, hlow⟩ := append_fields 0x0#4 n
    exact (decodePci_sf rest hkind).trans (congrArg (Instr.pciSf · rest) hlow)
  | pciFf n rest =>
    obtain ⟨hkind, hlow⟩ := append_fields 0x1#4 n
    exact (decodePci_ff rest hkind).trans (congrArg (Instr.pciFf · rest) hlow)
  | pciCf n rest =>
    obtain ⟨hkind, hlow⟩ := append_fields 0x2#4 n
    exact (decodePci_cf rest hkind).trans (congrArg (Instr.pciCf · rest) hlow)
  | pciFc n rest =>
    obtain ⟨hkind, hlow⟩ := append_fields 0x3#4 n
    exact (decodePci_fc rest hkind).trans (congrArg (Instr.pciFc · rest) hlow)
  | pciReserved4To7 n rest =>
    obtain ⟨hkind, hlow⟩ := append_fields 0b01#2 n
    exact (decodePci_reserved4To7 rest hkind).trans (congrArg (Instr.pciReserved4To7 · rest) hlow)
  | pciReserved8ToF n rest =>
    obtain ⟨hkind, hlow⟩ := append_fields 0b1#1 n
    exact (decodePci_reserved8ToF rest hkind).trans (congrArg (Instr.pciReserved8ToF · rest) hlow)
  | rdtciOther sp =>
    obtain ⟨hcount, hlist⟩ := isRoutedSubfunction_eq_false_iff.mp (Bool.not_eq_true' _ ▸ hcanonical)
    exact decodeSid_rdtciOther hcount hlist
  | sidUnsupported sid sp =>
    obtain ⟨h3E, h10, h22, h19⟩ := isRoutedSid_eq_false_iff.mp (Bool.not_eq_true' _ ▸ hcanonical)
    exact decodeSid_sidUnsupported sp h3E h10 h22 h19
  | reservedCmd6To7 low ops => exact decodeCommand_6To7 ops low
  | reservedCmdCToF low ops => exact decodeCommand_CToF ops low
  | testerPresent | diagnosticSessionControl | readDataByIdentifier | readDtcInformation01 | readDtcInformation02
  | reset | handleFrame | setDid | addDtc | clearDtc | readStatus | encodeSf | encodeFf | encodeCf | decode => rfl

/-- Settles O2: the row of each high nibble. -/
theorem frameKindFromHighNibble : Obligations.FrameKindFromHighNibble := by
  intro b rest
  have := b.isLt
  exact ⟨decodePci_sf rest, decodePci_ff rest, decodePci_cf rest, decodePci_fc rest,
    fun ⟨_, _⟩ => decodePci_reserved4To7 rest (by omega), fun _ => decodePci_reserved8ToF rest (by omega)⟩

/-- Settles O6, format by format. -/
theorem encodeOfDecode : Obligations.EncodeOfDecode :=
  ⟨encode_decodePci, fun sid sp => (requestRow_decodeSid sid sp).encode_eq,
    fun code ops => (commandRow_decodeCommand ops code).encoded⟩

/-- The decoder answers the first row of the opcode table that matches (R106). -/
theorem findIdx_covers_eq_row (t : Transaction) : opcodeTable.findIdx (·.covers t) = (decodeTransaction t).row := by
  cases t with
  | command code ops => exact (commandRow_decodeCommand ops code).findIdx_covers
  | frame b rest => exact findIdx_covers_frame b rest
  | request sid sp => exact (requestRow_decodeSid sid sp).findIdx_covers

theorem canonical_decodeTransaction (t : Transaction) : (decodeTransaction t).canonical = true := by
  cases t with
  | command code ops => exact (commandRow_decodeCommand ops code).canonical
  | frame b rest => exact canonical_decodePci b rest
  | request sid sp => exact (requestRow_decodeSid sid sp).canonical

theorem operandLength_encode (i : Instr) : (encode i).operandLength = i.operandLength := by
  cases i <;> rfl

theorem operandLength_decodeTransaction_le (t : Transaction) :
    (decodeTransaction t).operandLength ≤ t.operandLength := by
  cases t with
  | command code ops => exact (commandRow_decodeCommand ops code).operandLength_le
  | frame b rest => rw [← operandLength_encode, decodeTransaction, encode_decodePci]
  | request sid sp => rw [← operandLength_encode, decodeTransaction, (requestRow_decodeSid sid sp).encode_eq]

/-- Settles O7: the place of the decoded row is the first place in the table that covers the transaction. -/
theorem decodeIsFirstMatch : Obligations.DecodeIsFirstMatch := by
  intro t
  obtain ⟨hcovers, hearlier⟩ := (List.findIdx_eq (Instr.row_lt_length _)).mp (findIdx_covers_eq_row t)
  refine ⟨⟨_, List.getElem?_eq_getElem _, hcovers⟩, fun k row hk hrow => ?_, canonical_decodeTransaction t,
    operandLength_decodeTransaction_le t⟩
  obtain ⟨_, rfl⟩ := List.getElem?_eq_some_iff.mp hrow
  exact hearlier k hk

/-- Settles O1: twelve words evaluated. -/
theorem specWordsDecode : Obligations.SpecWordsDecode := by
  unfold Obligations.SpecWordsDecode
  decide

/-- Settles O3: the rows of the four routed SIDs, and the two fallbacks. -/
theorem serviceRoutingMap : Obligations.ServiceRoutingMap := by
  refine ⟨fun _ => rfl, fun _ => rfl, fun _ => rfl, fun _ => rfl, fun _ => rfl, rfl, fun sub rest h1 h2 => ?_,
    fun sid sp => decodeSid_sidUnsupported sp⟩
  exact decodeSid_rdtciOther (by simpa using h1) (by simpa using h2)

/-- Settles O4: ten concrete codes, and the two reserved rows as their fixed bits above the operand. -/
theorem commandCodeMap : Obligations.CommandCodeMap := by
  intro ops
  refine ⟨rfl, rfl, rfl, rfl, rfl, rfl, rfl, rfl, rfl, rfl, fun low => ?_, fun low => ?_⟩
  · have hcode : BitVec.ofNat 4 (6 + low.toNat) = 0b011#3 ++ low := by revert low; decide
    rw [hcode]
    exact decodeCommand_6To7 ops low
  · have hcode : BitVec.ofNat 4 (12 + low.toNat) = 0b11#2 ++ low := by revert low; decide
    rw [hcode]
    exact decodeCommand_CToF ops low

end Sys2Proof
end

section
/-! PROOF. The step (R102, R230, R241, R242): what it answers, that every step keeps the invariant, and that every
transaction, and so every sequence of them, is performed to its end. -/

namespace Sys2Proof.Machine

/-- Settles O8: neither of the step's two checks stops it. -/
theorem stepRunsDecodedInstruction : Obligations.StepRunsDecodedInstruction := by
  intro s t rest hpending hmove hfits
  have hasmove : hasMove (decodeTransaction t) s = true := by
    obtain hbuilt | ⟨id, hreset⟩ := hmove
    · simp [hasMove, hbuilt]
    · simp [hasMove, hreset, isReset]
  have fits : operandFits (decodeTransaction t) s = true := decide_eq_true hfits
  simp [step, hpending, hasmove, fits]

/-- Settles O9: the idle port, and the two checks in their order. -/
theorem stepWithoutMove : Obligations.StepWithoutMove := by
  refine ⟨fun s hidle => ?idle, fun s t rest hpending hbuilt hreset => ?stuck,
    fun s t rest hpending hbuilt hlong => ?refused⟩
  case idle => simp [step, hidle]
  case stuck =>
    have nomove : hasMove (decodeTransaction t) s = false := by
      rw [hasMove, hbuilt, Bool.false_or]
      exact isReset_eq_false fun ⟨id, hid⟩ => hreset id hid
    simp [step, hpending, nomove]
  case refused =>
    have hasmove : hasMove (decodeTransaction t) s = true := by simp [hasMove, hbuilt]
    have misfit : operandFits (decodeTransaction t) s = false := decide_eq_false (Nat.not_le.mpr hlong)
    simp [step, hpending, hasmove, misfit]

/-- A step that answers a next state is idle, or performs the transaction at the port. -/
theorem step_cases {s t : State} (h : step s = .next t) : t = s ∨
    ∃ tr rest, s.pending = tr :: rest ∧ exec (decodeTransaction tr) { s with pending := rest } = .next t := by
  unfold step at h
  split at h
  · cases h; exact .inl rfl
  · next tr rest hpending =>
    split_ifs at h
    exact .inr ⟨tr, rest, hpending, h⟩

section Invariant

variable {i : Instr} {s t : State}

theorem State.Inv.withPending (h : s.Inv) (rest : List Transaction) : State.Inv { s with pending := rest } :=
  ⟨h.params, h.didSorted, h.didFits, h.dtcFits⟩

/-- A transaction keeps the invariant: a stored value fits and keeps the keys rising, and a code is appended only to a
store that is not full. -/
theorem Effect.keeps_inv (h : Effect i s t) (hs : s.Inv) : t.Inv := by
  obtain ⟨hparams, hsorted, hfits, hcount⟩ := hs
  cases h with
  | none | fault | session => exact ⟨hparams, hsorted, hfits, hcount⟩
  | stored id v _ fits => exact ⟨hparams, didWrite_wf id v hsorted, didWrite_valuesFit hfits fits, hcount⟩
  | appended c _ notFull =>
    refine ⟨hparams, hsorted, hfits, ?_⟩
    rw [after_ecu, after_params, List.length_append, List.length_singleton]
    omega
  | cleared => exact ⟨hparams, hsorted, hfits, Nat.zero_le _⟩
  | reset id => exact ⟨hparams, initial_did_wf id, by simp, Nat.zero_le _⟩

end Invariant

/-- Settles O60: an idle step changes nothing, and every effect of a transaction keeps the invariant. -/
theorem stepKeepsInvariant : Obligations.StepKeepsInvariant := by
  intro s t hs h
  obtain rfl | ⟨tr, rest, -, hexec⟩ := step_cases h
  · exact hs
  · exact (exec_effect hexec).keeps_inv (hs.withPending rest)

/-- Settles O59: both stores are empty. -/
theorem invariantAtReset : Obligations.InvariantAtReset :=
  ⟨by decide, reset_did_wf, List.forall_mem_nil _, Nat.zero_le _⟩

theorem statusWord_initial (id : EcuId) : statusWord (Ecu.initial id) = 0x0000 := by
  simp [statusWord]

/-- Settles O46: what RESET does, and STATUS of the initial record. -/
theorem resetResult : Obligations.ResetResult :=
  ⟨fun _ => rfl, fun id s => ⟨_, exec_reset id s, rfl, fun _ => rfl, rfl, rfl, rfl, rfl, rfl, rfl, rfl,
    statusWord_initial id ▸ exec_readStatus _⟩⟩

/-- Settles O47: the fields of the initial record. -/
theorem resetState : Obligations.ResetState :=
  ⟨rfl, fun _ => rfl, rfl, rfl, rfl, rfl, statusWord_initial []⟩

section Completion

variable {s : State}

/-- After the first RESET every transaction, RESET too, ends in one result and changes no more than S. -/
theorem exec_completes (i : Instr) (hs : s.constructed = true) : ∃ e r, exec i s = .next (s.after e r) := by
  by_cases hreset : ∃ id, i = .reset id
  · obtain ⟨id, rfl⟩ := hreset
    refine ⟨Ecu.initial id, .done, ?_⟩
    rw [exec_reset, State.after, ← hs]
  · exact exec_ends s (isReset_eq_false hreset)

/-- The step of a constructed block with a transaction that fits at the port. -/
theorem step_completes {t : Transaction} {rest : List Transaction} (hs : s.constructed = true)
    (hpending : s.pending = t :: rest) (hfits : (decodeTransaction t).operandLength ≤ s.params.hostBufMax) :
    ∃ e r, step s = .next (State.after { s with pending := rest } e r) ∧
      exec (decodeTransaction t) { s with pending := rest } = .next (State.after { s with pending := rest } e r) := by
  obtain ⟨e, r, hexec⟩ := exec_completes (s := { s with pending := rest }) (decodeTransaction t) hs
  exact ⟨e, r, (stepRunsDecodedInstruction s t rest hpending (.inl hs) hfits).trans hexec, hexec⟩

theorem run_succ {u : State} (h : step s = .next u) (k : Nat) :
    Host.Core.run core (k + 1) s = Host.Core.run core k u := by
  have hcore : core.step s = .next u := h
  simp only [Host.Core.run, hcore]

end Completion

/-- Settles O10: the one result of the step, with everything else in its place. -/
theorem everyTransactionCompletes : Obligations.EveryTransactionCompletes := by
  intro s t rest hpending hs hfits
  obtain ⟨e, r, hstep, -⟩ := step_completes hs hpending hfits
  exact ⟨_, r, hstep, rfl, rfl, rfl, hs⟩

/-- Settles O11, by induction on the pending transactions: the first step answers the first result and leaves the
others to be performed from the state it answers. -/
theorem sequenceOfTransactionsCompletes : Obligations.SequenceOfTransactionsCompletes := by
  intro ts
  induction ts with
  | nil => exact fun s _ hpending _ => ⟨s, [], rfl, hpending, (List.append_nil _).symm, rfl, rfl, by simp⟩
  | cons t ts ih =>
    intro s hs hpending hfits
    obtain ⟨hfirst, hothers⟩ := List.forall_mem_cons.mp hfits
    obtain ⟨e, r, hstep, hexec⟩ := step_completes hs hpending hfirst
    obtain ⟨u, rs, hrun, hdone, hresults, hlength, hparams, heach⟩ :=
      ih (State.after { s with pending := ts } e r) hs rfl hothers
    refine ⟨u, r :: rs, (run_succ hstep _).trans hrun, hdone, by simp [hresults], by simp [hlength], hparams, ?_⟩
    intro k t' hk
    cases k with
    | zero =>
      obtain rfl : t = t' := by simpa using hk
      exact ⟨s, _, r, rfl, rfl, hpending, hexec, run_succ hstep 0, rfl⟩
    | succ k =>
      obtain ⟨v, w, r', hr', hbefore, hport, hperformed, hafter, hresult⟩ := heach k t' hk
      exact ⟨v, w, r', hr', (run_succ hstep k).trans hbefore, hport, hperformed, (run_succ hstep (k + 1)).trans hafter,
        hresult⟩

end Sys2Proof.Machine
end

section
/-! PROOF. The two inner formats (log 1): what the PCI rows and the UDS_REQ rows answer on their own, and that DECODE
and HANDLE_FRAME do exactly what the row of their frame or request does. -/

namespace Sys2Proof.Machine

section PciRows

variable {rest : Bytes} (s : State)

/-- A decode behind the length check, presented: too long a frame faults whatever it decodes to. -/
theorem presentDecoded_of_lt (d : Decoded) (h : 7 < rest.length) :
    presentDecoded (lengthChecked rest d) s = s.faulted .frameTooLong := by
  rw [lengthChecked_of_lt d h, presentDecoded_fault]

theorem presentDecoded_of_le (d : Decoded) (h : rest.length ≤ 7) :
    presentDecoded (lengthChecked rest d) s = presentDecoded d s := by
  rw [lengthChecked_of_le d h]

/-- The length check of DECODE and of a PCI row is the same (R124). -/
theorem exec_decode_cons {d : Decoded} (b : Byte) (hd : rest.length ≤ 7 → codecDecode (b :: rest) = d) :
    exec (.decode (b :: rest)) s = .next (presentDecoded (lengthChecked rest d) s) := by
  rcases Nat.lt_or_ge 7 rest.length with hlong | hfits
  · rw [presentDecoded_of_lt s d hlong, exec_decode_fault s (codecDecode_of_lt (by rw [List.length_cons]; omega))]
  · rw [lengthChecked_of_le d hfits, ← hd hfits]; rfl

end PciRows

/-- Settles O20: the length check, then the row's own frame or error. -/
theorem pciRowsAnswer : Obligations.PciRowsAnswer := by
  intro rest s
  refine ⟨fun hlong => ?tooLong, fun hfits => ?answers⟩
  case tooLong =>
    have faults (d : Decoded) : (.next (presentDecoded (lengthChecked rest d) s) : Host.Outcome State Fault Refusal) =
        .next (s.faulted .frameTooLong) := by rw [presentDecoded_of_lt s d hlong]
    exact ⟨fun _ => faults _, fun _ => faults _, fun _ => faults _, fun _ => faults _, fun _ => faults _,
      fun _ => faults _⟩
  case answers =>
    have answers (d : Decoded) : (.next (presentDecoded (lengthChecked rest d) s) : Host.Outcome State Fault Refusal) =
        .next (presentDecoded d s) := by rw [presentDecoded_of_le s d hfits]
    refine ⟨fun _ => answers _, fun hi hnil => ?_, fun hi lo chunk hcons => ?_, fun _ => answers _, fun _ => answers _,
      fun _ => answers _, fun _ => answers _⟩
    · subst hnil
      exact answers _
    · subst hcons
      refine (answers (decodeFf hi (lo :: chunk))).trans ?_
      rw [decodeFf_cons, List.take_of_length_le (Nat.le_of_succ_le_succ hfits), presentDecoded_frame]

/-- Settles O21: by the kind nibble, DECODE's frame or error is the row's. -/
theorem decodeRunsPciRow : Obligations.DecodeRunsPciRow := by
  intro b rest s
  rw [decodeTransaction]
  obtain hb | hb | hb | hb | hb | hb := pciKind_cases b
  · rw [decodePci_sf rest hb, ← lowNibble_eq_ofNat, exec_decode_cons s b fun h => codecDecode_sf h hb,
      ← lowNibble_toNat]
    rfl
  · rw [decodePci_ff rest hb, ← lowNibble_eq_ofNat, exec_decode_cons s b fun h => codecDecode_ff h hb]; rfl
  · rw [decodePci_cf rest hb, ← lowNibble_eq_ofNat, exec_decode_cons s b fun h => codecDecode_cf h hb]; rfl
  · rw [decodePci_fc rest hb, exec_decode_cons s b fun h => codecDecode_unknown h (by omega)]; rfl
  · rw [decodePci_reserved4To7 rest hb, exec_decode_cons s b fun h => codecDecode_unknown h (by omega)]; rfl
  · rw [decodePci_reserved8ToF rest hb, exec_decode_cons s b fun h => codecDecode_unknown h (by omega)]; rfl

section RequestRows

variable (s : State) {sid : Byte} {sp : Bytes} {i : Instr}

/-- A UDS_REQ row is the router's answer to its request, wrapped (R184). -/
theorem exec_requestRow (h : RequestRow sid sp i) : exec i s = .next (respond (dispatch s.ecu sid sp) s) := by
  cases h with
  | rdtciOther _ notCount notList => rw [dispatch_otherSubfunction s.ecu sp notCount notList]; rfl
  | sidUnsupported _ _ h3E h10 h22 h19 => rw [dispatch_unsupported s.ecu sp h3E h10 h22 h19]; rfl
  | testerPresent | diagnosticSessionControl | readDataByIdentifier | readDtcInformation01 | readDtcInformation02 => rfl

theorem exec_request (sid : Byte) (sp : Bytes) :
    exec (decodeTransaction (.request sid sp)) s = .next (respond (dispatch s.ecu sid sp) s) :=
  exec_requestRow s (requestRow_decodeSid sid sp)

theorem exec_requestRow_answer {e : Ecu} {r : Bytes} (h : RequestRow sid sp i) (hr : dispatch s.ecu sid sp = (e, r))
    (hlen : r.length ≤ 7) : exec i s = .next (s.after e (.bytes (BitVec.ofNat 8 r.length :: r))) := by
  rw [exec_requestRow s h, hr, respond_of_le s hlen]

theorem respond_eq (e : Ecu) (r : Bytes) : respond (e, r) s =
    if r.length ≤ 7 then s.after e (.bytes (BitVec.ofNat 8 r.length :: r)) else s.faulted .respOverflow := by
  split_ifs with h
  · exact respond_of_le s h
  · exact respond_of_lt s (Nat.not_le.mp h)

end RequestRows

/-- Settles O32: each service's response, wrapped; the two fallback rows answer alike whatever they stand for. -/
theorem requestRowsAnswer : Obligations.RequestRowsAnswer := by
  intro sp s
  have unsupported : respond (serveUnsupported s.ecu) s = s.after s.ecu (.bytes [0x03, 0x7F, 0x00, 0x12]) :=
    respond_of_le s (by simp [serveUnsupported, negativeResponse])
  refine ⟨exec_requestRow_answer s (.testerPresent sp) (dispatch_testerPresent s.ecu sp) (by simp),
    exec_requestRow_answer s (.diagnosticSessionControl sp) (dispatch_sessionControl s.ecu sp) (by simp),
    fun hshort =>
      exec_requestRow_answer s (.readDataByIdentifier sp) (dispatch_readDid_short s.ecu sp hshort) (by simp),
    ?stored, exec_requestRow_answer s (.readDtcInformation01 sp) (dispatch_dtcCount s.ecu sp) (by simp), ?list,
    congrArg Host.Outcome.next unsupported, fun _ => congrArg Host.Outcome.next unsupported⟩
  case stored =>
    rintro hi lo ignored rfl
    refine ⟨_, rfl, ?_⟩
    rw [exec_requestRow s (.readDataByIdentifier _), dispatch_readDid_cons, respond_eq]
    simp only [List.length_cons, Nat.reduceLeDiff]
  case list =>
    have hlen := dispatch_dtcList_length s.ecu sp
    have hfits : 2 + 4 * s.ecu.dtc.length ≤ 7 ↔ s.ecu.dtc.length ≤ 1 := by omega
    rw [dispatch_dtcList_records] at hlen
    rw [exec_requestRow s (.readDtcInformation02 sp), dispatch_dtcList_records, respond_eq, hlen]
    simp only [hfits]

/-- Settles O36: both are the router's answer, wrapped. -/
theorem handleFrameRunsRoutedRow : Obligations.HandleFrameRunsRoutedRow := fun _ _ sid sp s hrest hdata =>
  (exec_handleFrame_request hrest hdata s).trans (exec_request s sid sp).symm

end Sys2Proof.Machine
end

section
/-! PROOF. What each transaction can write (R33 to R37, R72, R188, R192), and which end in which kind of error (R104,
R213). -/

namespace Sys2Proof.Machine

section Footprint

variable {i : Instr} {s t : State}

/-- `session_active` is cleared by RESET alone (R33). -/
theorem Effect.session_sticky (h : Effect i s t) (hi : ∀ id, i ≠ .reset id) (hs : s.ecu.sessionActive = true) :
    t.ecu.sessionActive = true := by
  cases h with
  | reset id by_request => exact absurd by_request (hi id)
  | session => rfl
  | none | fault | stored | appended | cleared => exact hs

/-- `session_active` is set by DiagnosticSessionControl alone (R33). -/
theorem Effect.session_set (h : Effect i s t) (hs : s.ecu.sessionActive = false) (ht : t.ecu.sessionActive = true) :
    (∃ sp, i = .diagnosticSessionControl sp) ∨
      ∃ raw n sp, i = .handleFrame raw ∧ codecDecode raw = .frame (.sf n (0x10 :: sp)) := by
  cases h with
  | session _ by_request => exact by_request
  | reset => cases ht
  | none | fault | stored | appended | cleared => exact absurd (hs.symm.trans ht) Bool.false_ne_true

theorem Effect.did_eq_or (h : Effect i s t) :
    t.ecu.did = s.ecu.did ∨ (∃ id v, i = .setDid id v) ∨ ∃ id, i = .reset id := by
  cases h with
  | stored id v by_request => exact .inr (.inl ⟨id, v, by_request⟩)
  | reset id by_request => exact .inr (.inr ⟨id, by_request⟩)
  | none | fault | session | appended | cleared => exact .inl rfl

theorem Effect.dtc_eq_or (h : Effect i s t) :
    t.ecu.dtc = s.ecu.dtc ∨ (∃ c, i = .addDtc c) ∨ i = .clearDtc ∨ ∃ id, i = .reset id := by
  cases h with
  | appended c by_request => exact .inr (.inl ⟨c, by_request⟩)
  | cleared by_request => exact .inr (.inr (.inl by_request))
  | reset id by_request => exact .inr (.inr (.inr ⟨id, by_request⟩))
  | none | fault | session | stored => exact .inl rfl

end Footprint

/-- Settles O52: the fault bits and `session_active` are sticky, and set as listed. -/
theorem onlyResetClears : Obligations.OnlyResetClears := fun _ _ _ h =>
  ⟨fun hi => ⟨(exec_effect h).session_sticky hi, fun _ => (exec_effect h).fault_sticky hi⟩, (exec_effect h).session_set⟩

/-- Settles O53: the writers of each store and of the identifier. -/
theorem storeWriters : Obligations.StoreWriters := by
  intro i s t h
  refine ⟨(exec_effect h).did_eq_or.resolve_left, (exec_effect h).dtc_eq_or.resolve_left, fun hid => ?_⟩
  by_contra hreset
  exact hid ((exec_effect h).ecuId_eq (isReset_eq_false hreset))

section ReadOnly

variable {s : State}

theorem presentDecoded_ecu (d : Decoded) :
    (presentDecoded d s).ecu = { s.ecu with fault := (presentDecoded d s).ecu.fault } := by
  cases d <;> rfl

/-- A service other than DiagnosticSessionControl, wrapped, writes no more than a fault bit (R164, R185). -/
theorem respond_dispatch_ecu {sid : Byte} (sp : Bytes) (h : sid ≠ 0x10) : (respond (dispatch s.ecu sid sp) s).ecu =
    { s.ecu with fault := (respond (dispatch s.ecu sid sp) s).ecu.fault } := by
  rcases Nat.lt_or_ge 7 (dispatch s.ecu sid sp).2.length with hlong | hfits
  · rw [respond_of_lt s hlong]; rfl
  · rw [respond_of_le s hfits, dispatch_ecu s.ecu sp h]; rfl

end ReadOnly

/-- Settles O54: the encoders and READ_STATUS end in a result with S as it was; a decode and the router's answer to
another SID than 0x10 can latch a fault. -/
theorem readOnlyTransactions : Obligations.ReadOnlyTransactions := by
  intro i s t h
  constructor
  · rintro (rfl | ⟨p, rfl⟩ | ⟨c, L, rfl⟩ | ⟨c, sn, rfl⟩)
    · cases (exec_readStatus s).symm.trans h; rfl
    · cases (exec_encodeSf p s).symm.trans h; rfl
    · cases (exec_encodeFf c L s).symm.trans h; rfl
    · cases (exec_encodeCf c sn s).symm.trans h; rfl
  · rintro (⟨raw, rfl⟩ | ⟨b, rest, rfl⟩ | ⟨sid, sp, hsid, rfl⟩ | ⟨n, rest, sid, sp, hrest, hdata, hsid, rfl⟩)
    · cases h; exact presentDecoded_ecu _
    · cases (decodeRunsPciRow b rest s).trans h; exact presentDecoded_ecu _
    · cases (exec_request s sid sp).symm.trans h; exact respond_dispatch_ecu sp hsid
    · cases (exec_handleFrame_request hrest hdata s).symm.trans h; exact respond_dispatch_ecu sp hsid

section Configuration

variable {s t : State}

theorem exec_setDid_cases {id : Did} {v : Bytes} (h : exec (.setDid id v) s = .next t) :
    t = s.faulted .didValueTooLong ∨ t = s.after { s.ecu with did := didWrite s.ecu.did id v } .done := by
  rcases Nat.lt_or_ge s.params.didValMax v.length with hlong | hfits
  · cases (exec_setDid_of_lt s id hlong).symm.trans h; exact .inl rfl
  · cases (exec_setDid_of_le s id hfits).symm.trans h; exact .inr rfl

theorem exec_addDtc_cases {c : Dtc} (h : exec (.addDtc c) s = .next t) :
    t = s.faulted .dtcFull ∨ t = s.after { s.ecu with dtc := s.ecu.dtc ++ [c] } .done := by
  by_cases hfull : s.ecu.dtc.length = s.params.dtcCap
  · cases (exec_addDtc_of_eq s c hfull).symm.trans h; exact .inl rfl
  · cases (exec_addDtc_of_ne s c hfull).symm.trans h; exact .inr rfl

end Configuration

/-- Settles O55: each configuration transaction faults or is done, having written its own store. -/
theorem configurationTransactionsFrame : Obligations.ConfigurationTransactionsFrame := by
  intro i s t h
  refine ⟨?setDid, ?codes, ?nobytes⟩
  case setDid =>
    rintro ⟨id, v, rfl⟩
    obtain rfl | rfl := exec_setDid_cases h <;> exact ⟨rfl, rfl⟩
  case codes =>
    rintro (⟨c, rfl⟩ | rfl)
    · obtain rfl | rfl := exec_addDtc_cases h <;> exact ⟨rfl, rfl⟩
    · cases (exec_clearDtc s).symm.trans h; exact ⟨rfl, rfl⟩
  case nobytes =>
    rintro (⟨id, v, rfl⟩ | ⟨c, rfl⟩ | rfl) b
    · obtain rfl | rfl := exec_setDid_cases h <;> simp
    · obtain rfl | rfl := exec_addDtc_cases h <;> simp
    · cases (exec_clearDtc s).symm.trans h; simp

/-- Settles O41: the second write of a key replaces the first, an empty store and an active session stay as they
are. -/
theorem idempotentTransactions : Obligations.IdempotentTransactions := by
  refine ⟨fun id v w s t h hv hw => ?setDid, fun s t h => ?clearDtc, fun sp s t h => ?session⟩
  case setDid =>
    cases (exec_setDid_of_le s id hv).symm.trans h
    refine ⟨{ s.ecu with did := didWrite s.ecu.did id w }, ?_, exec_setDid_of_le s id hw⟩
    refine (exec_setDid_of_le (s.after _ _) id hw).trans ?_
    simp only [after_ecu, didWrite_didWrite]
  case clearDtc =>
    cases (exec_clearDtc s).symm.trans h
    exact exec_clearDtc _
  case session =>
    have answer (u : State) := exec_requestRow_answer u (.diagnosticSessionControl sp)
      (dispatch_sessionControl u.ecu sp) (by simp)
    cases (answer s).symm.trans h
    exact ⟨_, answer _⟩

/-- Settles O56: the read finds the value just written, and the count the code just appended. -/
theorem writesAreVisibleNext : Obligations.WritesAreVisibleNext := by
  refine ⟨fun hi lo v s hlen hfits => ⟨_, exec_setDid_of_le s _ hfits, ?read⟩,
    fun c s hroom _ => ⟨_, exec_addDtc_of_ne s c hroom.ne, ?count⟩⟩
  case read =>
    exact exec_handleFrame_answer (n := 3) (sid := 0x22) (sp := [hi, lo]) (by simp) rfl
      (dispatch_readDid_stored [] (didRead_didWrite_same _ _ v)) (Nat.add_le_add_right hlen 3)
  case count =>
    have hcount : (s.ecu.dtc ++ [c]).length = s.ecu.dtc.length + 1 := List.length_append
    rw [← hcount]
    exact exec_handleFrame_answer (n := 2) (sid := 0x19) (sp := [0x01]) (by simp) rfl (dispatch_dtcCount _ []) (by simp)

/-- The instructions that end in an error that is no fault, and the kind of each (R104, R213). -/
inductive ErrorEnd : Instr → Result → Prop where
  | encodeSf (p : Bytes) (e : ContractErr) : ErrorEnd (.encodeSf p) (.contractError e)
  | encodeFf (c : Bytes) (L : BitVec 16) (e : ContractErr) : ErrorEnd (.encodeFf c L) (.contractError e)
  | encodeCf (c : Bytes) (sn : BitVec 8) (e : ContractErr) : ErrorEnd (.encodeCf c sn) (.contractError e)
  | decode (raw : Bytes) (e : DecodeErr) : ErrorEnd (.decode raw) (.decodeError e)
  | pciFc (low : BitVec 4) (rest : Bytes) (e : DecodeErr) : ErrorEnd (.pciFc low rest) (.decodeError e)
  | pciReserved4To7 (low : BitVec 6) (rest : Bytes) (e : DecodeErr) :
      ErrorEnd (.pciReserved4To7 low rest) (.decodeError e)
  | pciReserved8ToF (low : BitVec 7) (rest : Bytes) (e : DecodeErr) :
      ErrorEnd (.pciReserved8ToF low rest) (.decodeError e)

/-- A contract error or a decode error. -/
def Result.isError : Result → Bool
  | .contractError _ | .decodeError _ => true
  | .bytes _ | .frame _ | .done | .status _ | .fault _ => false

section Errors

variable {i : Instr} {s t : State} {r : Result}

theorem presentDecoded_results_error {d : Decoded} (h : (presentDecoded d s).results = s.results ++ [r])
    (hr : r.isError = true) : ∃ e, d = .error e ∧ r = .decodeError e := by
  cases d with
  | error e => exact ⟨e, rfl, (result_unique rfl h).symm⟩
  | frame f => cases result_unique (presentDecoded_frame f s).symm h; cases hr
  | fault c => cases result_unique (presentDecoded_fault c s).symm h; cases hr

theorem lengthChecked_eq_error {rest : Bytes} {d : Decoded} {e : DecodeErr} (h : lengthChecked rest d = .error e) :
    d = .error e := by
  unfold lengthChecked at h
  split_ifs at h
  exact h

theorem decodeFf_ne_error (hi : BitVec 4) (rest : Bytes) (e : DecodeErr) : decodeFf hi rest ≠ .error e := by
  cases rest <;> simp [decodeFf]

theorem respond_results_isError {outcome : Ecu × Bytes} (h : (respond outcome s).results = s.results ++ [r]) :
    r.isError = false := by
  rcases Nat.lt_or_ge 7 outcome.2.length with hlong | hfits
  · cases result_unique (respond_of_lt s hlong).symm h; rfl
  · cases result_unique (respond_of_le s hfits).symm h; rfl

theorem handleDecoded_results_isError {d : Decoded} (h : (handleDecoded d s).results = s.results ++ [r]) :
    r.isError = false := by
  match d with
  | .frame (.sf _ (_ :: _)) => exact respond_results_isError h
  | .frame (.sf _ []) | .frame (.ff _ _) | .frame (.cf _ _) | .frame .fc | .error _ | .fault _ =>
    cases result_unique rfl h; rfl

theorem EncoderAnswer.eq_contractError (h : EncoderAnswer r) (hr : r.isError = true) : ∃ e, r = .contractError e := by
  cases h with
  | refused e => exact ⟨e, rfl⟩
  | encoded => cases hr

/-- An instruction that ends in an error is on the list. -/
theorem errorEnd_of_results (h : exec i s = .next t) (ht : t.results = s.results ++ [r]) (hr : r.isError = true) :
    ErrorEnd i r := by
  cases i with
  | decode | pciFc | pciReserved4To7 | pciReserved8ToF =>
    cases h
    obtain ⟨e, -, rfl⟩ := presentDecoded_results_error ht hr
    constructor
  | pciSf | pciCf =>
    cases h
    obtain ⟨e, hd, -⟩ := presentDecoded_results_error ht hr
    cases lengthChecked_eq_error hd
  | pciFf hi rest =>
    cases h
    obtain ⟨e, hd, -⟩ := presentDecoded_results_error ht hr
    exact absurd (lengthChecked_eq_error hd) (decodeFf_ne_error hi rest e)
  | encodeSf p =>
    have hanswer := encoderAnswer_of_results (exec_encodeSf p s) (sfAnswer_encoderAnswer p) h ht
    obtain ⟨e, rfl⟩ := hanswer.eq_contractError hr
    exact .encodeSf p e
  | encodeFf c L =>
    have hanswer := encoderAnswer_of_results (exec_encodeFf c L s) (ffAnswer_encoderAnswer _ c L) h ht
    obtain ⟨e, rfl⟩ := hanswer.eq_contractError hr
    exact .encodeFf c L e
  | encodeCf c sn =>
    have hanswer := encoderAnswer_of_results (exec_encodeCf c sn s) (cfAnswer_encoderAnswer _ c sn) h ht
    obtain ⟨e, rfl⟩ := hanswer.eq_contractError hr
    exact .encodeCf c sn e
  | testerPresent | diagnosticSessionControl | readDataByIdentifier | readDtcInformation01 | readDtcInformation02
  | rdtciOther | sidUnsupported =>
    cases h
    exact absurd hr (Bool.eq_false_iff.mp (respond_results_isError ht))
  | handleFrame =>
    cases h
    exact absurd hr (Bool.eq_false_iff.mp (handleDecoded_results_isError ht))
  | setDid =>
    obtain rfl | rfl := exec_setDid_cases h <;> cases result_unique rfl ht <;> cases hr
  | addDtc =>
    obtain rfl | rfl := exec_addDtc_cases h <;> cases result_unique rfl ht <;> cases hr
  | reset | clearDtc | readStatus | reservedCmd6To7 | reservedCmdCToF =>
    cases h
    cases result_unique rfl ht
    cases hr

end Errors

/-- Settles O50, from the list of the instructions that end in an error. -/
theorem errorKindsByTransaction : Obligations.ErrorKindsByTransaction := by
  refine fun i s t h => ⟨fun e ht => ?contract, fun e ht => ?decode⟩
  case contract =>
    cases errorEnd_of_results h ht rfl with
    | encodeSf p => exact .inl ⟨p, rfl⟩
    | encodeFf c L => exact .inr (.inl ⟨c, L, rfl⟩)
    | encodeCf c sn => exact .inr (.inr ⟨c, sn, rfl⟩)
  case decode =>
    cases errorEnd_of_results h ht rfl with
    | decode raw => exact .inl ⟨raw, rfl⟩
    | pciFc low rest => exact .inr (.inl ⟨low, rest, rfl⟩)
    | pciReserved4To7 low rest => exact .inr (.inr (.inl ⟨low, rest, rfl⟩))
    | pciReserved8ToF low rest => exact .inr (.inr (.inr ⟨low, rest, rfl⟩))

end Sys2Proof.Machine
end

section
/-! PROOF. The session gates nothing (R33, R74, R224): two runs that differ in `session_active` alone end alike under
every instruction but READ_STATUS. -/

namespace Sys2Proof.Machine

/-- The two records agree in all that a transaction but READ_STATUS reads: both stores and the fault latch. -/
structure Ecu.Alike (e e' : Ecu) : Prop where
  did : e'.did = e.did
  dtc : e'.dtc = e.dtc
  fault : e'.fault = e.fault

/-- The two states agree in the parameters, the results and, but for `session_active` and `ecu_id`, the record. -/
structure State.Alike (s u : State) : Prop where
  params : u.params = s.params
  results : u.results = s.results
  ecu : s.ecu.Alike u.ecu

/-- The instruction takes the two states to next states that agree again. -/
def EndAlike (i : Instr) (s u : State) : Prop :=
  ∃ t v, exec i s = .next t ∧ exec i u = .next v ∧ t.Alike v

section Alike

variable {i : Instr} {s u : State} (h : s.Alike u)
include h

theorem State.Alike.after {e e' : Ecu} (r : Result) (he : e.Alike e') : (s.after e r).Alike (u.after e' r) :=
  ⟨h.params, congrArg (· ++ [r]) h.results, he⟩

theorem State.Alike.faulted (c : FaultCode) : (s.faulted c).Alike (u.faulted c) :=
  h.after _ ⟨h.ecu.did, h.ecu.dtc, congrArg (· ||| _) h.ecu.fault⟩

theorem presentDecoded_alike (d : Decoded) : (presentDecoded d s).Alike (presentDecoded d u) := by
  cases d with
  | frame f => exact h.after (.frame f) h.ecu
  | error e => exact h.after (.decodeError e) h.ecu
  | fault c => exact h.faulted c

/-- The router reads no more of the record than agrees, and writes `session_active` alone (R164). -/
theorem respond_dispatch_alike (sid : Byte) (sp : Bytes) :
    (respond (dispatch s.ecu sid sp) s).Alike (respond (dispatch u.ecu sid sp) u) := by
  have hresponse : (dispatch u.ecu sid sp).2 = (dispatch s.ecu sid sp).2 :=
    (dispatch_routed s.ecu sid sp).response_congr (fun _ => h.ecu.did) (fun _ => h.ecu.dtc)
  have hecu : (dispatch s.ecu sid sp).1.Alike (dispatch u.ecu sid sp).1 := by
    rw [(dispatch_routed s.ecu sid sp).ecu_eq, (dispatch_routed u.ecu sid sp).ecu_eq]
    split_ifs
    · exact ⟨h.ecu.did, h.ecu.dtc, h.ecu.fault⟩
    · exact h.ecu
  rcases Nat.lt_or_ge 7 (dispatch s.ecu sid sp).2.length with hlong | hfits
  · rw [respond_of_lt s hlong, respond_of_lt u (hresponse ▸ hlong)]
    exact h.faulted _
  · rw [respond_of_le s hfits, respond_of_le u (hresponse ▸ hfits), hresponse]
    exact h.after _ hecu

theorem handleDecoded_alike (d : Decoded) : (handleDecoded d s).Alike (handleDecoded d u) := by
  have transport (nrc : Byte) : (s.after s.ecu (.bytes (transportError s.params nrc))).Alike
      (u.after u.ecu (.bytes (transportError u.params nrc))) := h.params ▸ h.after _ h.ecu
  match d with
  | .fault c => exact h.faulted c
  | .error _ => exact transport 0x12
  | .frame (.sf _ []) => exact h.after _ h.ecu
  | .frame (.sf _ (sid :: sp)) => exact respond_dispatch_alike h sid sp
  | .frame (.ff _ _) | .frame (.cf _ _) | .frame .fc => exact transport 0x31

theorem setDid_endAlike (id : Did) (v : Bytes) : EndAlike (.setDid id v) s u := by
  rcases Nat.lt_or_ge s.params.didValMax v.length with hlong | hfits
  · exact ⟨_, _, exec_setDid_of_lt s id hlong, exec_setDid_of_lt u id (h.params ▸ hlong), h.faulted _⟩
  · exact ⟨_, _, exec_setDid_of_le s id hfits, exec_setDid_of_le u id (h.params ▸ hfits),
      h.after _ ⟨congrArg (didWrite · id v) h.ecu.did, h.ecu.dtc, h.ecu.fault⟩⟩

theorem addDtc_endAlike (c : Dtc) : EndAlike (.addDtc c) s u := by
  have hfullness : u.ecu.dtc.length = u.params.dtcCap ↔ s.ecu.dtc.length = s.params.dtcCap := by
    rw [h.ecu.dtc, h.params]
  by_cases hfull : s.ecu.dtc.length = s.params.dtcCap
  · exact ⟨_, _, exec_addDtc_of_eq s c hfull, exec_addDtc_of_eq u c (hfullness.mpr hfull), h.faulted _⟩
  · exact ⟨_, _, exec_addDtc_of_ne s c hfull, exec_addDtc_of_ne u c (mt hfullness.mp hfull),
      h.after _ ⟨h.ecu.did, congrArg (· ++ [c]) h.ecu.dtc, h.ecu.fault⟩⟩

theorem exec_endAlike (hi : i ≠ .readStatus) : EndAlike i s u := by
  cases i with
  | readStatus => exact absurd rfl hi
  | pciSf | pciFf | pciCf | pciFc | pciReserved4To7 | pciReserved8ToF | decode =>
    exact ⟨_, _, rfl, rfl, presentDecoded_alike h _⟩
  | testerPresent sp => exact ⟨_, _, rfl, rfl, respond_dispatch_alike h 0x3E sp⟩
  | diagnosticSessionControl sp => exact ⟨_, _, rfl, rfl, respond_dispatch_alike h 0x10 sp⟩
  | readDataByIdentifier sp => exact ⟨_, _, rfl, rfl, respond_dispatch_alike h 0x22 sp⟩
  | readDtcInformation01 rest => exact ⟨_, _, rfl, rfl, respond_dispatch_alike h 0x19 (0x01 :: rest)⟩
  | readDtcInformation02 rest => exact ⟨_, _, rfl, rfl, respond_dispatch_alike h 0x19 (0x02 :: rest)⟩
  | rdtciOther | sidUnsupported => exact ⟨_, _, rfl, rfl, respond_dispatch_alike h 0x19 []⟩
  | handleFrame => exact ⟨_, _, rfl, rfl, handleDecoded_alike h _⟩
  | setDid id v => exact setDid_endAlike h id v
  | addDtc c => exact addDtc_endAlike h c
  | clearDtc => exact ⟨_, _, exec_clearDtc s, exec_clearDtc u, h.after _ ⟨h.ecu.did, rfl, h.ecu.fault⟩⟩
  | reset id => exact ⟨_, _, exec_reset id s, exec_reset id u, h.params, congrArg (· ++ _) h.results, rfl, rfl, rfl⟩
  | encodeSf p => exact ⟨_, _, exec_encodeSf p s, exec_encodeSf p u, h.after _ h.ecu⟩
  | encodeFf c L => exact ⟨_, _, exec_encodeFf c L s, h.params ▸ exec_encodeFf c L u, h.after _ h.ecu⟩
  | encodeCf c sn => exact ⟨_, _, exec_encodeCf c sn s, h.params ▸ exec_encodeCf c sn u, h.after _ h.ecu⟩
  | reservedCmd6To7 | reservedCmdCToF => exact ⟨_, _, rfl, rfl, h.faulted _⟩

end Alike

/-- Settles O57: the state with another `session_active` is alike. -/
theorem sessionGatesNothing : Obligations.SessionGatesNothing := by
  intro i s t b r hi h ht
  have halike : s.Alike { s with ecu := { s.ecu with sessionActive := b } } := ⟨rfl, rfl, rfl, rfl, rfl⟩
  obtain ⟨t', u, ht', hu, hend⟩ := exec_endAlike halike hi
  obtain rfl : t' = t := Host.Outcome.next.inj (ht'.symm.trans h)
  exact ⟨u, hu, hend.results.trans ht, hend.ecu.did, hend.ecu.dtc, hend.ecu.fault⟩

end Sys2Proof.Machine
end
